-- ==== Sys2Proof/Word.lean ====
section
/-! DEFINITION. The word types of spec/00_scope.md R10, R13 and the zero extension of R15. -/

namespace Sys2Proof

/-- `u8` (R13). -/
abbrev Byte := BitVec 8

/-- `u16` (R13). -/
abbrev U16 := BitVec 16

/-- `u32` (R13). -/
abbrev U32 := BitVec 32

/-- `zext_32` (R15), for a value of any width up to 32. -/
def zext32 {n : Nat} (v : BitVec n) : U32 := v.setWidth 32

end Sys2Proof
end

