-- ==== Sys2Proof/Config.lean ====
section
/-! DEFINITION. The document's numeric literals, each a named constant (spec/00_scope.md R5, R12; 93_implementation_defined.md I18),
the instantiation parameters of spec/00_scope.md R9 and the one free value of spec/20_memory.md R88.
Every open value is an opaque constant without a body: nothing in Lean can evaluate it (logs 9 and 10). -/

namespace Sys2Proof

/-! ## Named constants (R5, R12, I18): every other file takes the literals from here -/

/-- `START_MARKER` (R12). -/
def startMarker : U16 := 0xAA55

/-- `END_MARKER` (R12). -/
def endMarker : U16 := 0x55AA

/-- `TRAILER_MARKER` (R12). -/
def trailerMarker : U16 := 0xDEAD

/-- `HDR_LEN` (R12): the bytes of a header. -/
abbrev hdrLen : Nat := 20

/-- `TRL_LEN` (R12): the bytes of a trailer. -/
abbrev trlLen : Nat := 2

/-! ### The offsets of the header's fields (R110) -/

/-- `start_marker`. -/
abbrev startOffset : Nat := 0

/-- `width`. -/
abbrev widthOffset : Nat := 2

/-- `height`. -/
abbrev heightOffset : Nat := 4

/-- `data_length`. -/
abbrev dataLengthOffset : Nat := 6

/-- `pixel_format`. -/
abbrev pixelFormatOffset : Nat := 10

/-- `frame_id`. -/
abbrev frameIdOffset : Nat := 12

/-- `checksum`. -/
abbrev checksumOffset : Nat := 14

/-- `end_marker`. -/
abbrev endOffset : Nat := 18

/-! ## Parameters -/

/-- `EVENT_SIGNAL` (R9): whether a platform raises a line while `tx_ev` or `rx_ev` is non-empty. No rule reads it (log 20). -/
inductive EventSignal where
  | noLine
  | levelLine
deriving DecidableEq, Repr, Inhabited

/-- The parameters of one instance (R9). `MAX_CHUNK_SIZE` = 0 is not a legal configuration (R188), so a value of this
type carries the proof that it is not 0. DESIGN CHOICE (log 10): durations are numbers of no stated unit and `PORT_MAP`
is a list of numbers. No rule reads any of these, so no meaning depends on their form. -/
structure Params where
  maxChunkSize    : U32
  maxPayloadLen   : U32
  drainTimeout    : Nat
  hdrPayloadDelay : Nat
  rxTimeout       : Nat
  portMap         : List Nat
  eventSignal     : EventSignal
  chunk_pos       : maxChunkSize ≠ 0
deriving DecidableEq, Repr

/-- The number `Config.maxChunkSize` is made from: open (R9, D3). -/
opaque Config.chunkDraw : U32

/-- `MAX_PAYLOAD_LEN`: open (R9, D4). -/
opaque Config.maxPayloadLen : U32

/-- `DRAIN_TIMEOUT`: open, read by no rule (R9, D3). -/
opaque Config.drainTimeout : Nat

/-- `HDR_PAYLOAD_DELAY`: open, read by no rule (R9, D3). -/
opaque Config.hdrPayloadDelay : Nat

/-- `RX_TIMEOUT`: open, read by no rule (R9, D14). -/
opaque Config.rxTimeout : Nat

/-- `PORT_MAP`: open, read by no rule (R9, D32). -/
opaque Config.portMap : List Nat

/-- `EVENT_SIGNAL`: open, read by no rule (R9, D32). -/
opaque Config.eventSignal : EventSignal

/-- The free value of R88: the number the environment draws for the prefix a failed write leaves on the wire, one fresh
number for each value of `State.draws`. Its user takes it modulo the request's length plus one (log 9). -/
opaque Config.failPrefix : Nat → Nat

/-- `MAX_CHUNK_SIZE`: any value from 1 to 2^32-1 (R9, R188). A draw of 0, which no legal instance has, stands for 1. -/
def Config.maxChunkSize : U32 := if Config.chunkDraw = 0 then 1 else Config.chunkDraw

theorem Config.maxChunkSize_ne_zero : Config.maxChunkSize ≠ 0 := by
  unfold Config.maxChunkSize
  split
  · decide
  · assumption

/-- The parameters of the instance that `State.reset` describes. -/
def Config.params : Params where
  maxChunkSize    := Config.maxChunkSize
  maxPayloadLen   := Config.maxPayloadLen
  drainTimeout    := Config.drainTimeout
  hdrPayloadDelay := Config.hdrPayloadDelay
  rxTimeout       := Config.rxTimeout
  portMap         := Config.portMap
  eventSignal     := Config.eventSignal
  chunk_pos       := Config.maxChunkSize_ne_zero

end Sys2Proof
end

