-- ==== Sys2Proof/Syntax.lean ====
section
/-! DEFINITION. The operations of the block as syntax: one constructor of `Instr` per row of spec/opcode_table.json
(spec/30_encoding.md R118, and the wire formats of R111, R113 and R115). -/

namespace Sys2Proof

/-- The `unit` operand of `CK_CLEAR` and `CK_ADD` (R118): 0 is `tx.sum`, 1 is `rx.sum`. -/
inductive CkUnit where
  | tx
  | rx
deriving DecidableEq, Repr

/-- A transport's response to a write request (R18). -/
inductive WriteResp where
  | count (n : U32)
  | fail
deriving DecidableEq, Repr

/-- A transport's response to a drain request (R18). -/
inductive DrainResp where
  | done
  | timeout
deriving DecidableEq, Repr

/-- A header record: the six variable fields (R160, R37). The two markers are implied. -/
structure Header where
  width       : U16
  height      : U16
  dataLength  : U32
  pixelFormat : U16
  frameId     : U16
  checksum    : U32
deriving DecidableEq, Repr

/-- The bytes of a header (R110): a window of the receiver (R37), an encoded header (R33). -/
abbrev Window := Vector Byte hdrLen

/-- The operations of R118 in the table's order, then the three wire formats (R111, R113, R115). -/
inductive Instr where
  | sendFrame (width height pixelFormat : U16) (payload : List Byte)
  | txCksum
  | txHdrWrite (r : WriteResp)
  | txDelayDone
  | txChunkWrite (r : WriteResp)
  | txDrain (r : DrainResp)
  | txTrlWrite (r : WriteResp)
  | rxByte (b : Byte)
  | rxReplay
  | rxSettle
  | rxTimeout
  | ckClear (u : CkUnit)
  | ckAdd (u : CkUnit) (b : Byte)
  | cksum (bytes : List Byte)
  | hdrEncode (h : Header)
  | hdrDecode (w : Window)
  | txStatus
  | rxStatus
  | reset
  | wireHeader (h : Header)
  | wireTrailer
  | wireStart
deriving DecidableEq, Repr

/-- Where an operation comes from: an operation record (R118) or the byte stream on `rx_in` (R44). -/
inductive Port where
  | record
  | input
deriving DecidableEq, Repr

/-- The 19 operations have records; the three wire formats are patterns of the stream (R118, R120, log 7). -/
def Instr.port : Instr → Port
  | .sendFrame _ _ _ _ | .txCksum | .txHdrWrite _ | .txDelayDone | .txChunkWrite _ | .txDrain _ | .txTrlWrite _
  | .rxByte _ | .rxReplay | .rxSettle | .rxTimeout | .ckClear _ | .ckAdd _ _ | .cksum _ | .hdrEncode _
  | .hdrDecode _ | .txStatus | .rxStatus | .reset => .record
  | .wireHeader _ | .wireTrailer | .wireStart => .input

end Sys2Proof
end

