-- ==== Sys2Proof/WellFormed.lean ====
section
/-! DEFINITION. Which operations can be written as a record: the two length fields are u32 (spec/30_encoding.md R118;
spec/43_frame_sender.md R209; spec/40_checksum.md R142). Every other operand is in range by its type. -/

namespace Sys2Proof

/-- A byte sequence whose length fits a u32 length field (R11, R118). -/
abbrev fitsU32 (s : List Byte) : Prop := s.length < 2 ^ 32

/-- `SEND_FRAME`'s payload and `CKSUM`'s bytes have a length of at most 2^32-1 (R200, R142). -/
def Instr.WellFormed : Instr → Prop
  | .sendFrame _ _ _ p => fitsU32 p
  | .cksum s => fitsU32 s
  | .txCksum | .txHdrWrite _ | .txDelayDone | .txChunkWrite _ | .txDrain _ | .txTrlWrite _ | .rxByte _
  | .rxReplay | .rxSettle | .rxTimeout | .ckClear _ | .ckAdd _ _ | .hdrEncode _ | .hdrDecode _ | .txStatus
  | .rxStatus | .reset | .wireHeader _ | .wireTrailer | .wireStart => True

end Sys2Proof
end

