-- ==== Sys2Proof/Decode.lean ====
section
/-! DEFINITION. The byte-order helpers (spec/00_scope.md R16), the frame header codec
(spec/41_header_codec.md), the record decoder, total on bytes (spec/30_encoding.md R118-R121), and the encoder. -/

namespace Sys2Proof

/-! ## Byte order (R16, R80) -/

/-- `le16` (R16): least significant byte first. -/
def le16 (v : U16) : List Byte := [v.extractLsb' 0 8, v.extractLsb' 8 8]

/-- `le32` (R16). -/
def le32 (v : U32) : List Byte :=
  [v.extractLsb' 0 8, v.extractLsb' 8 8, v.extractLsb' 16 8, v.extractLsb' 24 8]

/-- The u16 whose little-endian bytes are `b0`, `b1` (R16). -/
def u16of (b0 b1 : Byte) : U16 := b1 ++ b0

/-- The u32 whose little-endian bytes are `b0` to `b3` (R16). -/
def u32of (b0 b1 b2 b3 : Byte) : U32 := b3 ++ b2 ++ b1 ++ b0

/-! ## The header (R110, R160, R161) -/

/-- Why a header does not decode (R161). -/
inductive HdrError where
  | malformedHeader
  | payloadTooLarge
deriving DecidableEq, Repr

/-- `s` with `bytes` in the place of what stands from offset `o` on. -/
def place (o : Nat) (bytes s : List Byte) : List Byte := s.take o ++ bytes ++ s.drop (o + bytes.length)

/-- The header bytes: `hdrLen` of them, each field at its offset (R110, R160). -/
def hdrBytes (h : Header) : List Byte :=
  place startOffset (le16 startMarker) <|
  place widthOffset (le16 h.width) <|
  place heightOffset (le16 h.height) <|
  place dataLengthOffset (le32 h.dataLength) <|
  place pixelFormatOffset (le16 h.pixelFormat) <|
  place frameIdOffset (le16 h.frameId) <|
  place checksumOffset (le32 h.checksum) <|
  place endOffset (le16 endMarker) <|
  List.replicate hdrLen 0

/-- `HDR_ENCODE(h)` (R160): exactly `hdrLen` bytes; no field is checked (R165). -/
def hdrEncode (h : Header) : Window := ⟨(hdrBytes h).toArray, rfl⟩

/-- `u16le(w, o)` on a window (R16, R117). -/
def u16le (w : Window) (o : Nat) (h : o + 1 < hdrLen := by decide) : U16 := u16of w[o] w[o + 1]

/-- `u32le(w, o)` on a window (R16, R117). -/
def u32le (w : Window) (o : Nat) (h : o + 3 < hdrLen := by decide) : U32 :=
  u32of w[o] w[o + 1] w[o + 2] w[o + 3]

/-- The six fields at their offsets (R110, R117). -/
def hdrFields (w : Window) : Header where
  width       := u16le w widthOffset
  height      := u16le w heightOffset
  dataLength  := u32le w dataLengthOffset
  pixelFormat := u16le w pixelFormatOffset
  frameId     := u16le w frameIdOffset
  checksum    := u32le w checksumOffset

/-- Both sentinels stand at their fixed offsets (R161). -/
def markersGood (w : Window) : Bool := u16le w startOffset == startMarker && u16le w endOffset == endMarker

/-- `HDR_DECODE(w)` (R161): the sentinels first, then the inclusive bound. -/
def hdrDecode (maxPayloadLen : U32) (w : Window) : Except HdrError Header :=
  if markersGood w = false then .error .malformedHeader
  else if (hdrFields w).dataLength > maxPayloadLen then .error .payloadTooLarge
  else .ok (hdrFields w)

/-- A byte sequence of length `n` as one value; none for any other length. -/
def exactly? (n : Nat) (s : List Byte) : Option (Vector Byte n) :=
  if h : s.length = n then some ⟨s.toArray, by simpa using h⟩ else none

/-- The window a byte sequence of length `hdrLen` is (R167). -/
def window? (s : List Byte) : Option Window := exactly? hdrLen s

/-! ## Operation codes (R118) -/

/-- The 19 operation codes by name. -/
inductive Opcode where
  | sendFrame | txCksum | txHdrWrite | txDelayDone | txChunkWrite | txDrain | txTrlWrite
  | rxByte | rxReplay | rxSettle | rxTimeout
  | ckClear | ckAdd | cksum
  | hdrEncode | hdrDecode
  | txStatus | rxStatus | reset
deriving DecidableEq, Repr

/-- The code column of R118. -/
def opcodeTable : List (Byte × Opcode) :=
  [(0x01, .sendFrame), (0x02, .txCksum), (0x03, .txHdrWrite), (0x04, .txDelayDone),
   (0x05, .txChunkWrite), (0x06, .txDrain), (0x07, .txTrlWrite),
   (0x10, .rxByte), (0x11, .rxReplay), (0x12, .rxSettle), (0x13, .rxTimeout),
   (0x20, .ckClear), (0x21, .ckAdd), (0x22, .cksum),
   (0x30, .hdrEncode), (0x31, .hdrDecode),
   (0x40, .txStatus), (0x41, .rxStatus), (0x7F, .reset)]

/-- The operation a code byte names; none for a reserved code (R120). -/
def Opcode.ofByte (c : Byte) : Option Opcode := (opcodeTable.find? (·.1 == c)).map (·.2)

/-- An operation's code byte (R118). -/
def Opcode.byte : Opcode → Byte
  | .sendFrame => 0x01
  | .txCksum => 0x02
  | .txHdrWrite => 0x03
  | .txDelayDone => 0x04
  | .txChunkWrite => 0x05
  | .txDrain => 0x06
  | .txTrlWrite => 0x07
  | .rxByte => 0x10
  | .rxReplay => 0x11
  | .rxSettle => 0x12
  | .rxTimeout => 0x13
  | .ckClear => 0x20
  | .ckAdd => 0x21
  | .cksum => 0x22
  | .hdrEncode => 0x30
  | .hdrDecode => 0x31
  | .txStatus => 0x40
  | .rxStatus => 0x41
  | .reset => 0x7F

/-- The operation code of an instruction; the wire formats have none (R118, R120). -/
def Instr.opcode : Instr → Option Opcode
  | .sendFrame _ _ _ _ => some .sendFrame
  | .txCksum => some .txCksum
  | .txHdrWrite _ => some .txHdrWrite
  | .txDelayDone => some .txDelayDone
  | .txChunkWrite _ => some .txChunkWrite
  | .txDrain _ => some .txDrain
  | .txTrlWrite _ => some .txTrlWrite
  | .rxByte _ => some .rxByte
  | .rxReplay => some .rxReplay
  | .rxSettle => some .rxSettle
  | .rxTimeout => some .rxTimeout
  | .ckClear _ => some .ckClear
  | .ckAdd _ _ => some .ckAdd
  | .cksum _ => some .cksum
  | .hdrEncode _ => some .hdrEncode
  | .hdrDecode _ => some .hdrDecode
  | .txStatus => some .txStatus
  | .rxStatus => some .rxStatus
  | .reset => some .reset
  | .wireHeader _ => none
  | .wireTrailer => none
  | .wireStart => none

/-! ## The record decoder (R119, R120) -/

/-- The verdict "invalid" of R120, with its cause. -/
inductive DecodeError where
  | reservedCode (c : Byte)
  | badWriteTag (tag : Byte)
  | badDrainByte (b : Byte)
  | badUnit (u : Byte)
  | shortRecord
deriving DecidableEq, Repr

/-- What a decoder or an operand parser answers: a value and the bytes after it, or "invalid". -/
abbrev Parse (α : Type) := Except DecodeError (α × List Byte)

def take8 : List Byte → Parse Byte
  | b :: r => .ok (b, r)
  | _ => .error .shortRecord

def take16 : List Byte → Parse U16
  | b0 :: b1 :: r => .ok (u16of b0 b1, r)
  | _ => .error .shortRecord

def take32 : List Byte → Parse U32
  | b0 :: b1 :: b2 :: b3 :: r => .ok (u32of b0 b1 b2 b3, r)
  | _ => .error .shortRecord

/-- The next `n` bytes. -/
def takeBytes (n : Nat) (s : List Byte) : Parse (List Byte) :=
  if n ≤ s.length then .ok (s.take n, s.drop n) else .error .shortRecord

/-- Parse, then go on with the value and the bytes after it; "invalid" stays "invalid". -/
def Parse.andThen {α β : Type} (p : Parse α) (f : α → List Byte → Parse β) : Parse β :=
  match p with
  | .ok (a, s) => f a s
  | .error e => .error e

/-- Use a parsed operand. -/
def Parse.use {α β : Type} (p : Parse α) (f : α → β) : Parse β := p.andThen fun a s => .ok (f a, s)

/-- A u32 length and that many bytes (R118). -/
def takeSized (s : List Byte) : Parse (List Byte) :=
  (take32 s).andThen fun n s => takeBytes n.toNat s

/-- A write response: tag 00 and a u32, or tag 01 (R119). -/
def takeWriteResp (s : List Byte) : Parse WriteResp :=
  (take8 s).andThen fun tag s =>
    if tag = 0x00 then (take32 s).use .count
    else if tag = 0x01 then .ok (.fail, s)
    else .error (.badWriteTag tag)

/-- A drain response: 00 or 01 (R119). -/
def takeDrainResp (s : List Byte) : Parse DrainResp :=
  (take8 s).andThen fun b s =>
    if b = 0x00 then .ok (.done, s)
    else if b = 0x01 then .ok (.timeout, s)
    else .error (.badDrainByte b)

/-- A `unit` byte: 0 or 1 (R118, R120). -/
def takeUnit (s : List Byte) : Parse CkUnit :=
  (take8 s).andThen fun b s =>
    if b = 0x00 then .ok (.tx, s)
    else if b = 0x01 then .ok (.rx, s)
    else .error (.badUnit b)

/-- The six fields of `HDR_ENCODE` in record order (R118). -/
def takeHeader (s : List Byte) : Parse Header :=
  (take16 s).andThen fun width s =>
  (take16 s).andThen fun height s =>
  (take32 s).andThen fun dataLength s =>
  (take16 s).andThen fun pixelFormat s =>
  (take16 s).andThen fun frameId s =>
  (take32 s).use fun checksum => ⟨width, height, dataLength, pixelFormat, frameId, checksum⟩

/-- The header bytes of `HDR_DECODE` (R118, R167). -/
def takeWindow (s : List Byte) : Parse Window :=
  match window? (s.take hdrLen) with
  | some w => .ok (w, s.drop hdrLen)
  | none => .error .shortRecord

/-- The operands of `SEND_FRAME` (R200). -/
def takeSendFrame (s : List Byte) : Parse Instr :=
  (take16 s).andThen fun width s =>
  (take16 s).andThen fun height s =>
  (take16 s).andThen fun pixelFormat s =>
  (takeSized s).use fun payload => .sendFrame width height pixelFormat payload

/-- The operands of `CK_ADD` (R141). -/
def takeCkAdd (s : List Byte) : Parse Instr :=
  (takeUnit s).andThen fun u s => (take8 s).use fun b => .ckAdd u b

/-- The operands after the code byte (R118, R119). -/
def decodeOperands (o : Opcode) (s : List Byte) : Parse Instr :=
  match o with
  | .sendFrame => takeSendFrame s
  | .txCksum => .ok (.txCksum, s)
  | .txHdrWrite => (takeWriteResp s).use .txHdrWrite
  | .txDelayDone => .ok (.txDelayDone, s)
  | .txChunkWrite => (takeWriteResp s).use .txChunkWrite
  | .txDrain => (takeDrainResp s).use .txDrain
  | .txTrlWrite => (takeWriteResp s).use .txTrlWrite
  | .rxByte => (take8 s).use .rxByte
  | .rxReplay => .ok (.rxReplay, s)
  | .rxSettle => .ok (.rxSettle, s)
  | .rxTimeout => .ok (.rxTimeout, s)
  | .ckClear => (takeUnit s).use .ckClear
  | .ckAdd => takeCkAdd s
  | .cksum => (takeSized s).use .cksum
  | .hdrEncode => (takeHeader s).use .hdrEncode
  | .hdrDecode => (takeWindow s).use .hdrDecode
  | .txStatus => .ok (.txStatus, s)
  | .rxStatus => .ok (.rxStatus, s)
  | .reset => .ok (.reset, s)

/-- The record decoder: the first record of a byte sequence and the bytes after it, or "invalid" (R120). DEDUCED
(log 26): bytes after a record's last operand belong to the next record, since a record's length follows from its
code (R121). -/
def decode : List Byte → Parse Instr
  | [] => .error .shortRecord
  | c :: s =>
    match Opcode.ofByte c with
    | some o => decodeOperands o s
    | none => .error (.reservedCode c)

/-! ## The stream on `rx_in` (R111, R113, R115) -/

/-- The wire format that a block of bytes is, whole: a header with both markers (R111), a trailer (R113), or a start
marker (R115). -/
def wireFormat? (s : List Byte) : Option Instr :=
  if s = le16 startMarker then some .wireStart
  else if s = le16 trailerMarker then some .wireTrailer
  else match window? s with
    | some w => if markersGood w then some (.wireHeader (hdrFields w)) else none
    | none => none

/-- The first block of the bytes waiting on `rx_in`: the longest wire format they begin with, else one byte (a start
marker is a u16 as a trailer is, so the two have one length). How the
bytes are grouped has no effect on what the receiver does (R87, R249; log 7). -/
def decodeInput : List Byte → Parse Instr
  | [] => .error .shortRecord
  | b :: s =>
    match wireFormat? ((b :: s).take hdrLen) with
    | some i => .ok (i, (b :: s).drop hdrLen)
    | none =>
      match wireFormat? ((b :: s).take trlLen) with
      | some i => .ok (i, (b :: s).drop trlLen)
      | none => .ok (.rxByte b, s)

/-- The decoder of each source of operations. -/
def decodeFrom : Port → List Byte → Parse Instr
  | .record => decode
  | .input => decodeInput

/-! ## The encoder (R118, R119) -/

def encodeWriteResp : WriteResp → List Byte
  | .count n => 0x00 :: le32 n
  | .fail => [0x01]

def encodeDrainResp : DrainResp → List Byte
  | .done => [0x00]
  | .timeout => [0x01]

def encodeUnit : CkUnit → List Byte
  | .tx => [0x00]
  | .rx => [0x01]

/-- A u32 length and the bytes (R118). -/
def encodeSized (s : List Byte) : List Byte := le32 (BitVec.ofNat 32 s.length) ++ s

/-- The six fields in record order (R118). -/
def encodeHeader (h : Header) : List Byte :=
  le16 h.width ++ le16 h.height ++ le32 h.dataLength ++ le16 h.pixelFormat ++ le16 h.frameId ++ le32 h.checksum

/-- The bytes of a well-formed instruction: its record (R118, R119), or its wire format (R110, R113, R115). -/
def encode : Instr → List Byte
  | .sendFrame w h f p => 0x01 :: (le16 w ++ le16 h ++ le16 f ++ encodeSized p)
  | .txCksum => [0x02]
  | .txHdrWrite r => 0x03 :: encodeWriteResp r
  | .txDelayDone => [0x04]
  | .txChunkWrite r => 0x05 :: encodeWriteResp r
  | .txDrain r => 0x06 :: encodeDrainResp r
  | .txTrlWrite r => 0x07 :: encodeWriteResp r
  | .rxByte b => [0x10, b]
  | .rxReplay => [0x11]
  | .rxSettle => [0x12]
  | .rxTimeout => [0x13]
  | .ckClear u => 0x20 :: encodeUnit u
  | .ckAdd u b => 0x21 :: (encodeUnit u ++ [b])
  | .cksum s => 0x22 :: encodeSized s
  | .hdrEncode h => 0x30 :: encodeHeader h
  | .hdrDecode w => 0x31 :: w.toList
  | .txStatus => [0x40]
  | .rxStatus => [0x41]
  | .reset => [0x7F]
  | .wireHeader h => hdrBytes h
  | .wireTrailer => le16 trailerMarker
  | .wireStart => le16 startMarker

/-! ## Words of the opcode table -/

/-- The `k` low bytes of `w`, least significant first. -/
def leBytes : Nat → Nat → List Byte
  | 0, _ => []
  | k + 1, w => BitVec.ofNat 8 (w % 256) :: leBytes k (w / 256)

/-- The bytes of a table word as the hardware stores them: least significant byte first, but for WIRE_START, whose row
writes the pair in arrival order with the first byte in bits 15:8 (log 8). -/
def layoutWord (nbits w : Nat) : List Byte :=
  if nbits = 16 ∧ w = 0x55AA then [0x55, 0xAA] else leBytes ((nbits + 7) / 8) w

/-- How many zero bytes follow a table word: more than any record's fixed part needs. -/
def wordPadding : List Byte := List.replicate 32 0

/-- The instruction read from a table word: a wire format where the row is one, else the record decoder's answer with
zero operands after the table's bits. -/
def decodeTableWord (nbits w : Nat) : Option Instr :=
  match wireFormat? (layoutWord nbits w) with
  | some i => some i
  | none =>
    match decode (layoutWord nbits w ++ wordPadding) with
    | .ok (i, _) => some i
    | .error _ => none

end Sys2Proof
end

