-- ==== Sys2Proof/Machine/State.lean ====
section
/-! DEFINITION. The state of the block (spec/10_state.md), the records it emits (R45, R46; spec/60_exceptions.md R300, R301), the
reasons a step can stop, and the state after reset (spec/70_reset_and_hazards.md R341). -/

namespace Sys2Proof.Machine

/-- The TX sequencer's states (R32). -/
inductive TxSt where
  | idle
  | checksum
  | writeHeader
  | delay
  | writeChunk
  | drain
  | writeTrailer
deriving DecidableEq, Repr

/-- The receiver's states (R36). -/
inductive RxSt where
  | scanning
  | headerPartial
  | payloadPartial
  | trailerPartial
  | complete
  | invalid
deriving DecidableEq, Repr

/-- The `code` of a TX result (R300). -/
inductive TxCode where
  | ok
  | headerWriteError
  | payloadWriteError
  | trailerWriteError
deriving DecidableEq, Repr

/-- A TX result record (R45). -/
structure TxResult where
  code      : TxCode
  frameId   : U16
  bytesSent : U32
deriving DecidableEq, Repr

/-- A receiver failure: its code, and the detail that code carries (R301). -/
inductive RxError where
  | malformedHeader (window : Window)
  | payloadTooLarge (window : Window) (dataLength : U32)
  | checksumMismatch (frameId : U16) (dataLength expected computed : U32)
  | checksumOrFramingMismatch (frameId : U16) (trailer : Vector Byte trlLen) (checksumOk : Bool) (expected computed : U32)
  | rxTimeout (state : RxSt) (received : U32) (frameId : Option U16)
deriving DecidableEq, Repr

/-- An RX event record (R46). -/
inductive RxEvent where
  | frameOk (frameId width height pixelFormat : U16) (checksum : U32) (payload : List Byte)
  | frameError (e : RxError)
deriving DecidableEq, Repr

/-- What an operation returns on the `cmd` port (R44): a status word (R270, R271), a checksum (R142), an encoded header
(R160), a decoded header or a decode failure (R161). -/
inductive CmdResult where
  | word (v : U32)
  | header (w : Window)
  | decoded (h : Header)
  | decodeFailed (e : HdrError)
deriving DecidableEq, Repr

/-- A request on `tx_write` or `tx_drain` with its response (R44, R18). -/
inductive TxRequest where
  | write (bytes : List Byte) (resp : WriteResp)
  | drain (timeout : Nat) (resp : DrainResp)
deriving DecidableEq, Repr

/-- The TX fields (R33) and the TX wire log (R48). A field absent in the current state is `none` (R31). -/
structure TxState where
  state       : TxSt
  frameId     : U16
  width       : Option U16
  height      : Option U16
  pixelFormat : Option U16
  payload     : Option (List Byte)
  sum         : U32
  hdr         : Option (Window)
  offset      : U32
  bytesSent   : U32
  wire        : List Byte
deriving DecidableEq, Repr

/-- The RX fields (R37) and the RX input log (R49). A field absent in the current state is `none` (R31). DEDUCED
(log 12): `prev` is `none` whenever `prevValid` is false. -/
structure RxState where
  state       : RxSt
  prevValid   : Bool
  prev        : Option Byte
  win         : List Byte
  hdr         : Option Header
  payload     : List Byte
  sum         : U32
  trl         : List Byte
  replay      : List Byte
  err         : Option RxError
  lastId      : U16
  lastIdValid : Bool
  input       : List Byte
deriving DecidableEq, Repr

/-- The fields that can be absent (R31). -/
inductive Field where
  | txWidth | txHeight | txPixelFormat | txPayload | txHdr
  | rxPrev | rxHdr | rxErr
deriving DecidableEq, Repr

/-- Why a step can stop with a fault. The block itself has no fault (R304; 93_implementation_defined.md). -/
inductive Fault where
  /-- Raised by a meaning that reads a field absent in the current state. R31 says no rule reads it there, and no state that
  meets the invariants of R35 and R39 reaches it. Safe: the model stops where the spec gives nothing (log 11). -/
  | absentField (f : Field)
deriving DecidableEq, Repr

/-- Why a step can be refused (R20: only what 93_implementation_defined.md marks `refuse`). -/
inductive Refusal where
  /-- Raised by an arm of `exec` whose instruction has no meaning yet: none has been left. Safe. -/
  | notModelled (mnemonic : String)
  /-- Raised by the transport steps: a response `Count n` with n above the request's length, which the environment never
  gives (R88, I5). Safe (log 14). -/
  | countExceedsRequest
  /-- Raised by `SEND_FRAME` with a payload longer than 2^32-1 bytes (R209, I3). No record expresses one. Safe (log 15). -/
  | payloadTooLong
  /-- Raised by `step` where the next record is invalid (R120, I4). Safe (log 16). -/
  | invalidRecord (e : DecodeError)
  /-- Raised by `instantiate` for `MAX_CHUNK_SIZE` = 0 (R188, I2). Safe (log 10). -/
  | zeroChunkSize
  /-- Raised by `instantiate` for a size above 2^32-1, outside the legal values of R9. Safe (log 10). -/
  | parameterOutOfRange
  /-- Raised by `TxSt.ofCode` for code 7 and by `RxSt.ofCode` for codes 6 and 7 (R32, R36, I1). Safe (log 21). -/
  | unreachableStateCode (code : BitVec 3)
deriving DecidableEq, Repr

/-- The whole machine: the two agents, the event channels (R50), the instance's parameters (R9), what the environment has
offered and the block has not taken yet, and the model's own logs. -/
structure State where
  tx     : TxState
  rx     : RxState
  txEv   : List TxResult
  rxEv   : List RxEvent
  /-- The parameters (R9). No operation writes them. -/
  params : Params
  /-- The operations held, oldest first (R20, R200; log 2). -/
  held   : List Instr
  /-- The bytes the transport holds for `rx_in`, oldest first (R240, R355; log 3). -/
  rxIn   : List Byte
  /-- The model's own: the bytes of the operation records still to come (R118; log 1). -/
  trace  : List Byte
  /-- The model's own log: results returned on `cmd` (R44; log 5). -/
  cmdOut : List CmdResult
  /-- The model's own log: requests on `tx_write` and `tx_drain` with their responses (R44; log 6). -/
  txPort : List TxRequest
  /-- The model's own: how many free values have been drawn (R88; log 9). -/
  draws  : Nat
deriving DecidableEq, Repr

/-- The TX column of R341. -/
def TxState.reset : TxState where
  state       := .idle
  frameId     := 0
  width       := none
  height      := none
  pixelFormat := none
  payload     := none
  sum         := 0
  hdr         := none
  offset      := 0
  bytesSent   := 0
  wire        := []

/-- The RX column of R341. -/
def RxState.reset : RxState where
  state       := .scanning
  prevValid   := false
  prev        := none
  win         := []
  hdr         := none
  payload     := []
  sum         := 0
  trl         := []
  replay      := []
  err         := none
  lastId      := 0
  lastIdValid := false
  input       := []

/-- The machine right after reset (R341, R342) with no command held (R346). The parameters are open (R9). The reset values
of the environment's and the model's own fields are DESIGN CHOICES (logs 1, 2, 3, 5, 6, 9). -/
def State.reset : State where
  tx     := TxState.reset
  rx     := RxState.reset
  txEv   := []
  rxEv   := []
  params := Config.params
  held   := []
  rxIn   := []
  trace  := []
  cmdOut := []
  txPort := []
  draws  := 0

/-- What a meaning answers. -/
abbrev Result := Host.Outcome State Fault Refusal

end Sys2Proof.Machine
end

