-- ==== Sys2Proof/Machine/Flags.lean ====
section
/-! DEFINITION. The three flags of spec/10_state.md R40 and the two status words of R41 (spec/45_status.md R270, R271). -/

namespace Sys2Proof.Machine

/-- The numeric code of a TX state (R32). -/
def TxSt.code : TxSt → BitVec 3
  | .idle => 0
  | .checksum => 1
  | .writeHeader => 2
  | .delay => 3
  | .writeChunk => 4
  | .drain => 5
  | .writeTrailer => 6

/-- The numeric code of an RX state (R36). -/
def RxSt.code : RxSt → BitVec 3
  | .scanning => 0
  | .headerPartial => 1
  | .payloadPartial => 2
  | .trailerPartial => 3
  | .complete => 4
  | .invalid => 5

/-- The TX state a code names; code 7 is refused (R32, I1). -/
def TxSt.ofCode (c : BitVec 3) : Except Refusal TxSt :=
  if c = 0 then .ok .idle
  else if c = 1 then .ok .checksum
  else if c = 2 then .ok .writeHeader
  else if c = 3 then .ok .delay
  else if c = 4 then .ok .writeChunk
  else if c = 5 then .ok .drain
  else if c = 6 then .ok .writeTrailer
  else .error (.unreachableStateCode c)

/-- The RX state a code names; codes 6 and 7 are refused (R36, I1). -/
def RxSt.ofCode (c : BitVec 3) : Except Refusal RxSt :=
  if c = 0 then .ok .scanning
  else if c = 1 then .ok .headerPartial
  else if c = 2 then .ok .payloadPartial
  else if c = 3 then .ok .trailerPartial
  else if c = 4 then .ok .complete
  else if c = 5 then .ok .invalid
  else .error (.unreachableStateCode c)

/-- The number of a TX result code (R300). -/
def TxCode.number : TxCode → Nat
  | .ok => 0
  | .headerWriteError => 1
  | .payloadWriteError => 2
  | .trailerWriteError => 3

/-- The number of a receiver failure (R301). -/
def RxError.number : RxError → Nat
  | .malformedHeader _ => 1
  | .payloadTooLarge _ _ => 2
  | .checksumMismatch _ _ _ _ => 3
  | .checksumOrFramingMismatch _ _ _ _ _ => 4
  | .rxTimeout _ _ _ => 5

/-- The number of an RX event (R301). -/
def RxEvent.number : RxEvent → Nat
  | .frameOk _ _ _ _ _ _ => 0
  | .frameError e => e.number

/-- `rx.prev_valid` set: `b` is the byte scanned last (R40, R232). -/
def RxState.remember (b : Byte) (rx : RxState) : RxState := { rx with prevValid := true, prev := some b }

/-- `rx.prev_valid` cleared (R40). `rx.prev` then has no value (R31, R37; log 12). -/
def RxState.forget (rx : RxState) : RxState := { rx with prevValid := false, prev := none }

/-- `rx.last_id_valid` set with the identifier of a delivered frame (R40, R246). -/
def RxState.recordId (i : U16) (rx : RxState) : RxState := { rx with lastId := i, lastIdValid := true }

/-- `checksum_ok`, computed and not stored (R40, R237). -/
def RxState.checksumOk (h : Header) (rx : RxState) : Bool := rx.sum == h.checksum

/-- `TXSTAT` (R41, R270). -/
def txStat (tx : TxState) : U32 := zext32 tx.frameId <<< 16 ||| zext32 tx.state.code

/-- `RXSTAT` (R41, R271). -/
def rxStat (rx : RxState) : U32 :=
  zext32 (if rx.lastIdValid then rx.lastId else 0) <<< 16 |||
    zext32 (BitVec.ofBool rx.lastIdValid) <<< 3 ||| zext32 rx.state.code

end Sys2Proof.Machine
end

