-- ==== Sys2Proof/Machine/Ops.lean ====
section
/-! DEFINITION. The named operations the meanings share: the checksum accumulator (spec/40_checksum.md), the transport
requests (spec/20_memory.md R88; spec/42_chunked_transmitter.md R183), the two failure entries `finish`
(spec/43_frame_sender.md R207) and `fail_rx` (spec/44_frame_receiver.md R238), and the return (R244). -/

namespace Sys2Proof.Machine

/-! ## Instance -/

/-- An instance's parameters from its sizes (R9). `MAX_CHUNK_SIZE` = 0 is refused (R188, I2), and so is a size outside
the legal values of R9. -/
def instantiate (chunk payload drain delay timeout : Nat) (ports : List Nat) (line : EventSignal) :
    Except Refusal Params :=
  if 2 ^ 32 ≤ chunk ∨ 2 ^ 32 ≤ payload then .error .parameterOutOfRange
  else if h : BitVec.ofNat 32 chunk ≠ 0 then
    .ok ⟨BitVec.ofNat 32 chunk, BitVec.ofNat 32 payload, drain, delay, timeout, ports, line, h⟩
  else .error .zeroChunkSize

/-! ## Waiting -/

/-- An operation with no move yet is held (R20, R200; log 2). -/
def State.hold (i : Instr) (s : State) : State := { s with held := s.held ++ [i] }

/-- Bytes the receiver is not ready for wait in the transport, in order (R240, R355; log 3). -/
def State.offer (bs : List Byte) (s : State) : State := { s with rxIn := s.rxIn ++ bs }

/-! ## Output -/

/-- `Emit(tx_ev, r)` (R18). -/
def State.emitTx (r : TxResult) (s : State) : State := { s with txEv := s.txEv ++ [r] }

/-- `Emit(rx_ev, e)` (R18). -/
def State.emitRx (e : RxEvent) (s : State) : State := { s with rxEv := s.rxEv ++ [e] }

/-- A result returned on `cmd` (R44; log 5). -/
def State.answer (r : CmdResult) (s : State) : State := { s with cmdOut := s.cmdOut ++ [r] }

/-- A request on `tx_write` or `tx_drain`, with its response (R44; log 6). -/
def State.request (r : TxRequest) (s : State) : State := { s with txPort := s.txPort ++ [r] }

def State.setTx (tx : TxState) (s : State) : State := { s with tx := tx }

def State.setRx (rx : RxState) (s : State) : State := { s with rx := rx }

/-! ## Fields that can be absent (R31; log 11) -/

/-- Read a TX field that can be absent. -/
def readField {α : Type} (f : Field) (v : Option α) (k : α → Result) : Result :=
  match v with
  | some a => k a
  | none => .fault (.absentField f)

/-- Read an RX field that can be absent. -/
def need {α β : Type} (f : Field) (v : Option α) (k : α → Except Fault β) : Except Fault β :=
  match v with
  | some a => k a
  | none => .error (.absentField f)

/-- Put the receiver's new state back, or stop. -/
def liftRx (s : State) : Except Fault RxState → Result
  | .ok rx => .next (s.setRx rx)
  | .error f => .fault f

/-! ## Checksum (R141, R142) -/

/-- One byte added modulo 2^32, zero-extended (R141). -/
def ckAddByte (acc : U32) (b : Byte) : U32 := acc + zext32 b

/-- `CKSUM(s)` (R142). -/
def cksum (s : List Byte) : U32 := s.foldl ckAddByte 0

/-- The accumulator `unit` selects (R140). -/
def State.acc (u : CkUnit) (s : State) : U32 :=
  match u with
  | .tx => s.tx.sum
  | .rx => s.rx.sum

/-- Write the accumulator `unit` selects (R140). -/
def State.setAcc (u : CkUnit) (v : U32) (s : State) : State :=
  match u with
  | .tx => s.setTx { s.tx with sum := v }
  | .rx => s.setRx { s.rx with sum := v }

/-! ## Transport requests -/

/-- The prefix a failed write of `len` bytes leaves on the wire: unknown, 0 to `len` (R88, I6; log 9). -/
def failedPrefix (draw len : Nat) : Nat := Config.failPrefix draw % (len + 1)

/-- A write request logged, and the first `n` of its bytes on the wire (R88); `draws` free values have been drawn. -/
def State.wrote (bytes : List Byte) (resp : WriteResp) (n draws : Nat) (s : State) : State :=
  { s with
    tx := { s.tx with wire := s.tx.wire ++ bytes.take n }
    txPort := s.txPort ++ [.write bytes resp], draws := draws }

/-- `WireWrite(bytes)` answered `resp`, then `k` (R88). A count n puts exactly the first n bytes on the wire; `Fail`
leaves an unknown prefix; a count above the request's length is not admitted (I5; log 14). -/
def wireWrite (bytes : List Byte) (resp : WriteResp) (s : State) (k : State → Result) : Result :=
  match resp with
  | .count n =>
    if n.toNat ≤ bytes.length then k (s.wrote bytes resp n.toNat s.draws) else .refused .countExceedsRequest
  | .fail => k (s.wrote bytes resp (failedPrefix s.draws bytes.length) (s.draws + 1))

/-- `WireDrain()` answered `resp`: no effect on the wire (R183). -/
def wireDrain (resp : DrainResp) (s : State) : State := s.request (.drain s.params.drainTimeout resp)

/-! ## Failure entry and return -/

/-- The TX fields after a frame attempt has ended (R207). -/
def TxState.finished (tx : TxState) : TxState :=
  { tx with
    frameId := tx.frameId + 1, state := .idle, offset := 0, bytesSent := 0, sum := 0
    width := none, height := none, pixelFormat := none, payload := none, hdr := none }

/-- `finish(code)`: ends the current frame attempt (R207, R312). -/
def finish (code : TxCode) (s : State) : State :=
  (s.emitTx ⟨code, s.tx.frameId, s.tx.bytesSent⟩).setTx s.tx.finished

/-- `fail_rx(code, detail)`: records the failure and moves RX to `Invalid` (R238, R311). -/
def failRx (e : RxError) (rx : RxState) : RxState := { rx with err := some e, state := .invalid }

/-- `clear_frame()` (R239). -/
def clearFrame (rx : RxState) : RxState :=
  { rx.forget with win := [], payload := [], trl := [], sum := 0, hdr := none, err := none }

/-- `settle_invalid()`: the return from a receiver failure (R244, R313). -/
def settleInvalid (s : State) : Result :=
  match s.rx.err with
  | some e => .next ((s.emitRx (.frameError e)).setRx { clearFrame s.rx with state := .scanning })
  | none => .fault (.absentField .rxErr)

end Sys2Proof.Machine
end

