-- ==== Sys2Proof/Machine/Operands.lean ====
section
/-! DEFINITION. What an operation reads before it acts: when it is enabled (spec/30_encoding.md R118), the chunk a write
offers (spec/42_chunked_transmitter.md R181), and what happens to an operation that is not enabled (R20). -/

namespace Sys2Proof.Machine

/-- The states in which RX can take a byte (R231, R240). -/
def RxSt.takesBytes : RxSt → Bool
  | .scanning | .headerPartial | .payloadPartial | .trailerPartial => true
  | .complete | .invalid => false

/-- The states that hold a partial frame (R245). -/
def RxSt.partialFrame : RxSt → Bool
  | .headerPartial | .payloadPartial | .trailerPartial => true
  | .scanning | .complete | .invalid => false

/-- The states in which `tx.sum` has no meaning (R33), so that no clause of R35 is about it. -/
def TxSt.sumFree : TxSt → Bool
  | .idle | .checksum => true
  | .writeHeader | .delay | .writeChunk | .drain | .writeTrailer => false

/-- The states in which `rx.sum` has no meaning (R37), so that no clause of R39 is about it. -/
def RxSt.sumFree : RxSt → Bool
  | .scanning | .headerPartial => true
  | .payloadPartial | .trailerPartial | .complete | .invalid => false

/-- The accumulator `unit` selects belongs to no frame in progress. -/
def sumFree (u : CkUnit) (s : State) : Bool :=
  match u with
  | .tx => s.tx.state.sumFree
  | .rx => s.rx.state.sumFree

/-- The ready signal on `rx_in` (R240). -/
def rxReady (rx : RxState) : Bool := rx.state.takesBytes && rx.replay.isEmpty

/-- When an operation is enabled (R118). The combinational functions, the status reads, `RESET` and `RX_TIMEOUT` are enabled
always (log 19); a micro-operation given by a record of its own, while its accumulator belongs to no frame (log 13); a block
of bytes on `rx_in` is enabled as `RX_BYTE` is (log 7). -/
def enabled (i : Instr) (s : State) : Bool :=
  match i with
  | .sendFrame _ _ _ _ => s.tx.state == .idle
  | .txCksum => s.tx.state == .checksum
  | .txHdrWrite _ => s.tx.state == .writeHeader
  | .txDelayDone => s.tx.state == .delay
  | .txChunkWrite _ => s.tx.state == .writeChunk
  | .txDrain _ => s.tx.state == .drain
  | .txTrlWrite _ => s.tx.state == .writeTrailer
  | .rxByte _ => rxReady s.rx
  | .rxReplay => s.rx.state.takesBytes && !s.rx.replay.isEmpty
  | .rxSettle => !s.rx.state.takesBytes
  | .rxTimeout => true
  | .ckClear u => sumFree u s
  | .ckAdd u _ => sumFree u s
  | .cksum _ => true
  | .hdrEncode _ => true
  | .hdrDecode _ => true
  | .txStatus => true
  | .rxStatus => true
  | .reset => true
  | .wireHeader _ => rxReady s.rx
  | .wireTrailer => rxReady s.rx
  | .wireStart => rxReady s.rx

/-- The bytes an operation offers on `rx_in`; none for an operation that is no input (R87, R240; log 7). -/
def inputBytes : Instr → Option (List Byte)
  | .rxByte b => some [b]
  | .wireHeader h => some (hdrBytes h)
  | .wireTrailer => some (le16 trailerMarker)
  | .wireStart => some (le16 startMarker)
  | .sendFrame _ _ _ _ | .txCksum | .txHdrWrite _ | .txDelayDone | .txChunkWrite _ | .txDrain _ | .txTrlWrite _
  | .rxReplay | .rxSettle | .rxTimeout | .ckClear _ | .ckAdd _ _ | .cksum _ | .hdrEncode _ | .hdrDecode _
  | .txStatus | .rxStatus | .reset => none

/-- An operation with no move in this state waits: input bytes in the transport (R240), any other in the hold (R20). -/
def wait (i : Instr) (s : State) : State :=
  match inputBytes i with
  | some bs => s.offer bs
  | none => s.hold i

/-- The common form of a meaning: its effect where the operation is enabled; otherwise it waits (R20). -/
def guarded (i : Instr) (s : State) (k : Result) : Result :=
  if enabled i s then k else .next (wait i s)

/-- `chunk` (R181): the longest run of unsent payload bytes no longer than `MAX_CHUNK_SIZE`. -/
def chunk (p : Params) (payload : List Byte) (offset : U32) : List Byte :=
  (payload.drop offset.toNat).take p.maxChunkSize.toNat

end Sys2Proof.Machine
end

