-- ==== Sys2Proof/Machine/Checksum.lean ====
section
/-! DEFINITION. The checksum unit's operations (spec/40_checksum.md). DEDUCED (log 13): while a frame's checksum is in the
accumulator only the frame's own steps use it (R118, R33, R35, R37, R39), so a micro-operation given by a record of its own waits. -/

namespace Sys2Proof.Machine

/-- `CK_CLEAR unit` (R140). -/
def execCkClear (u : CkUnit) (s : State) : Result :=
  guarded (.ckClear u) s (.next (s.setAcc u 0))

/-- `CK_ADD unit, b` (R141): a carry out of bit 31 is discarded. -/
def execCkAdd (u : CkUnit) (b : Byte) (s : State) : Result :=
  guarded (.ckAdd u b) s (.next (s.setAcc u (ckAddByte (s.acc u) b)))

/-- `CKSUM(s)` (R142, R143): a pure function; its value is returned on `cmd` (log 5). A sequence longer
than a record can express has a sum too (log 22). -/
def execCksum (bytes : List Byte) (s : State) : Result :=
  guarded (.cksum bytes) s (.next (s.answer (.word (cksum bytes))))

end Sys2Proof.Machine
end

