-- ==== Sys2Proof/Machine/Chunk.lean ====
section
/-! DEFINITION. The Chunked Transmitter's operations (spec/42_chunked_transmitter.md). -/

namespace Sys2Proof.Machine

/-- `TX_CHUNK_WRITE` (R182): the next chunk (R181) as one write. `Fail` and `Count 0` end the frame; a count from 1 to the
chunk's length advances by that count, a short one too. -/
def execTxChunkWrite (r : WriteResp) (s : State) : Result :=
  guarded (.txChunkWrite r) s <|
    readField .txPayload s.tx.payload fun payload =>
    wireWrite (chunk s.params payload s.tx.offset) r s fun s =>
    match r with
    | .fail => .next (finish .payloadWriteError s)
    | .count n =>
      if n = 0 then .next (finish .payloadWriteError s)
      else .next (s.setTx { s.tx with
        offset := s.tx.offset + n, bytesSent := s.tx.bytesSent + n, state := .drain })

/-- `TX_DRAIN` (R183). -/
def execTxDrain (r : DrainResp) (s : State) : Result :=
  guarded (.txDrain r) s <|
    match r with
    | .timeout => .next (finish .payloadWriteError (wireDrain r s))
    | .done =>
      readField .txPayload s.tx.payload fun payload =>
      .next ((wireDrain r s).setTx { s.tx with
        state := if s.tx.offset.toNat = payload.length then .writeTrailer else .writeChunk })

end Sys2Proof.Machine
end

