-- ==== Sys2Proof/Machine/Codec.lean ====
section
/-! DEFINITION. The header codec's operations (spec/41_header_codec.md): pure functions (R168) whose value is returned on
`cmd` (log 5). -/

namespace Sys2Proof.Machine

/-- `HDR_ENCODE(h)` (R160). -/
def execHdrEncode (h : Header) (s : State) : Result :=
  guarded (.hdrEncode h) s (.next (s.answer (.header (hdrEncode h))))

/-- What `HDR_DECODE` returns (R161): a failure is a value and raises no event. -/
def decodeResult : Except HdrError Header → CmdResult
  | .ok h => .decoded h
  | .error e => .decodeFailed e

/-- `HDR_DECODE(w)` (R161). -/
def execHdrDecode (w : Window) (s : State) : Result :=
  guarded (.hdrDecode w) s (.next (s.answer (decodeResult (hdrDecode s.params.maxPayloadLen w))))

end Sys2Proof.Machine
end

