-- ==== Sys2Proof/Machine/Receiver.lean ====
section
/-! DEFINITION. The Frame Receiver: the byte-processing function and its operations (spec/44_frame_receiver.md). -/

namespace Sys2Proof.Machine

/-- Open a header window at the start marker (R232). -/
def openWindow (rx : RxState) : RxState :=
  { rx.forget with win := le16 startMarker, state := .headerPartial }

/-- `scan_step(b)` (R232): the start marker's wire bytes on two consecutive logical input bytes. -/
def scanStep (b : Byte) (rx : RxState) : Except Fault RxState :=
  if rx.prevValid then
    need .rxPrev rx.prev fun p =>
      if [p, b] = le16 startMarker then .ok (openWindow rx) else .ok (rx.remember b)
  else .ok (rx.remember b)

/-- `header_ok(h)` (R234). -/
def headerOk (h : Header) (rx : RxState) : RxState :=
  { rx with
    hdr := some h, payload := [], sum := 0, trl := [], win := []
    state := if h.dataLength = 0 then .trailerPartial else .payloadPartial }

/-- The failure a header error records (R235, R301). -/
def headerFailure (e : HdrError) (w : Window) : RxError :=
  match e with
  | .malformedHeader => .malformedHeader w
  | .payloadTooLarge => .payloadTooLarge w (hdrFields w).dataLength

/-- `header_bad(e)` on the full window `w` (R235): all bytes but the first are queued for replay. -/
def headerBad (e : HdrError) (w : Window) (rx : RxState) : RxState :=
  failRx (headerFailure e w) { rx with replay := w.toList.drop 1 ++ rx.replay }

/-- `header_step(b)` (R233). -/
def headerStep (p : Params) (b : Byte) (rx : RxState) : RxState :=
  match window? (rx.win ++ [b]) with
  | none => { rx with win := rx.win ++ [b] }
  | some w =>
    match hdrDecode p.maxPayloadLen w with
    | .ok h => headerOk h { rx with win := rx.win ++ [b] }
    | .error e => headerBad e w { rx with win := rx.win ++ [b] }

/-- `payload_step(b)` (R236). -/
def payloadStep (b : Byte) (rx : RxState) : Except Fault RxState :=
  need .rxHdr rx.hdr fun h =>
    if (rx.payload ++ [b]).length = h.dataLength.toNat then
      .ok { rx with payload := rx.payload ++ [b], sum := ckAddByte rx.sum b, trl := [], state := .trailerPartial }
    else .ok { rx with payload := rx.payload ++ [b], sum := ckAddByte rx.sum b }

/-- The failure a wrong trailer records (R237, R301). -/
def trailerFailure (h : Header) (trailer : Vector Byte trlLen) (rx : RxState) : RxError :=
  .checksumOrFramingMismatch h.frameId trailer (rx.checksumOk h) h.checksum rx.sum

/-- `trailer_step(b)` (R237): the trailer is compared once all its bytes are in. -/
def trailerStep (b : Byte) (rx : RxState) : Except Fault RxState :=
  match exactly? trlLen (rx.trl ++ [b]) with
  | none => .ok { rx with trl := rx.trl ++ [b] }
  | some t =>
    if t.toList = le16 trailerMarker then .ok { rx with trl := t.toList, state := .complete }
    else need .rxHdr rx.hdr fun h => .ok (failRx (trailerFailure h t rx) { rx with trl := t.toList })

/-- `rx_consume(b)` (R231). In `Complete` and `Invalid` it is never called, and no byte is consumed there. -/
def rxConsume (p : Params) (b : Byte) (rx : RxState) : Except Fault RxState :=
  match rx.state with
  | .scanning => scanStep b rx
  | .headerPartial => .ok (headerStep p b rx)
  | .payloadPartial => payloadStep b rx
  | .trailerPartial => trailerStep b rx
  | .complete | .invalid => .ok rx

/-- Take one byte from the transport: log it and process it (R240). -/
def takeByte (b : Byte) (s : State) : Result :=
  liftRx s (rxConsume s.params b { s.rx with input := s.rx.input ++ [b] })

/-- `RX_BYTE b` (R240). -/
def execRxByte (b : Byte) (s : State) : Result := guarded (.rxByte b) s (takeByte b s)

/-- `RX_REPLAY` (R241): the input log is not extended. -/
def execRxReplay (s : State) : Result :=
  guarded .rxReplay s <|
    match s.rx.replay with
    | b :: r => liftRx s (rxConsume s.params b { s.rx with replay := r })
    | [] => .next s

/-- `settle_complete()` (R243). -/
def settleComplete (s : State) : Result :=
  match s.rx.hdr with
  | some h =>
    if s.rx.sum = h.checksum then
      .next ((s.emitRx (.frameOk h.frameId h.width h.height h.pixelFormat h.checksum s.rx.payload)).setRx
        { clearFrame (s.rx.recordId h.frameId) with state := .scanning })
    else .next (s.setRx (failRx (.checksumMismatch h.frameId h.dataLength h.checksum s.rx.sum) s.rx))
  | none => .fault (.absentField .rxHdr)

/-- `RX_SETTLE` (R242). -/
def execRxSettle (s : State) : Result :=
  guarded .rxSettle s (if s.rx.state = .complete then settleComplete s else settleInvalid s)

/-- The bytes gathered in a partial state (R245). -/
def received (rx : RxState) : Nat :=
  match rx.state with
  | .headerPartial => rx.win.length
  | .payloadPartial => rx.payload.length
  | .trailerPartial => rx.trl.length
  | .scanning | .complete | .invalid => 0

/-- Abandon a partial frame (R245, R301; log 23). -/
def abandon (rx : RxState) : Except Fault RxState :=
  if rx.state = .headerPartial then
    .ok (failRx (.rxTimeout rx.state (BitVec.ofNat 32 (received rx)) none) rx)
  else
    need .rxHdr rx.hdr fun h =>
      .ok (failRx (.rxTimeout rx.state (BitVec.ofNat 32 (received rx)) (some h.frameId)) rx)

/-- `RX_TIMEOUT` (R245): no change in `Scanning`, `Complete` and `Invalid` and while replay is pending. -/
def execRxTimeout (s : State) : Result :=
  guarded .rxTimeout s <|
    if s.rx.state.partialFrame && s.rx.replay.isEmpty then liftRx s (abandon s.rx) else .next s

end Sys2Proof.Machine
end

