-- ==== Sys2Proof/Machine/Sender.lean ====
section
/-! DEFINITION. The Frame Sender's operations (spec/43_frame_sender.md). -/

namespace Sys2Proof.Machine

/-- The TX fields a `SEND_FRAME` writes (R200). -/
def TxState.capture (width height pixelFormat : U16) (payload : List Byte) (tx : TxState) : TxState :=
  { tx with
    width := some width, height := some height, pixelFormat := some pixelFormat, payload := some payload
    offset := 0, bytesSent := 0, state := .checksum }

/-- `SEND_FRAME` (R200); a payload longer than 2^32-1 is refused (R209). -/
def execSendFrame (width height pixelFormat : U16) (payload : List Byte) (s : State) : Result :=
  if payload.length < 2 ^ 32 then
    guarded (.sendFrame width height pixelFormat payload) s
      (.next (s.setTx (s.tx.capture width height pixelFormat payload)))
  else .refused .payloadTooLong

/-- The header of the current frame (R202; log 23). -/
def frameHeader (width height pixelFormat frameId : U16) (payload : List Byte) : Header where
  width       := width
  height      := height
  dataLength  := BitVec.ofNat 32 payload.length
  pixelFormat := pixelFormat
  frameId     := frameId
  checksum    := cksum payload

/-- `TX_CKSUM` (R202). -/
def execTxCksum (s : State) : Result :=
  guarded .txCksum s <|
    readField .txWidth s.tx.width fun width =>
    readField .txHeight s.tx.height fun height =>
    readField .txPixelFormat s.tx.pixelFormat fun pixelFormat =>
    readField .txPayload s.tx.payload fun payload =>
    .next (s.setTx { s.tx with
      sum := cksum payload
      hdr := some (hdrEncode (frameHeader width height pixelFormat s.tx.frameId payload))
      state := .writeHeader })

/-- `TX_HDR_WRITE` (R203). -/
def execTxHdrWrite (r : WriteResp) (s : State) : Result :=
  guarded (.txHdrWrite r) s <|
    readField .txHdr s.tx.hdr fun hdr =>
    wireWrite hdr.toList r s fun s =>
    if r = .count (BitVec.ofNat 32 hdrLen) then .next (s.setTx { s.tx with state := .delay })
    else .next (finish .headerWriteError s)

/-- `TX_DELAY_DONE` (R204). -/
def execTxDelayDone (s : State) : Result :=
  guarded .txDelayDone s <|
    readField .txPayload s.tx.payload fun payload =>
    .next (s.setTx { s.tx with state := if payload.length = 0 then .writeTrailer else .writeChunk })

/-- `TX_TRL_WRITE` (R205). -/
def execTxTrlWrite (r : WriteResp) (s : State) : Result :=
  guarded (.txTrlWrite r) s <|
    wireWrite (le16 trailerMarker) r s fun s =>
    if r = .count (BitVec.ofNat 32 trlLen) then .next (finish .ok s)
    else .next (finish .trailerWriteError s)

end Sys2Proof.Machine
end

