-- ==== Sys2Proof/Machine/Status.lean ====
section
/-! DEFINITION. The status reads (spec/45_status.md) and `RESET` (spec/70_reset_and_hazards.md R340). -/

namespace Sys2Proof.Machine

/-- `TX_STATUS` (R270): the word is returned on `cmd` (log 5) and nothing else changes. -/
def execTxStatus (s : State) : Result :=
  guarded .txStatus s (.next (s.answer (.word (txStat s.tx))))

/-- `RX_STATUS` (R271). -/
def execRxStatus (s : State) : Result :=
  guarded .rxStatus s (.next (s.answer (.word (rxStat s.rx))))

/-- Both agents and every log in the reset state (R340). DESIGN CHOICE (log 4): what the environment holds outside the
block (held commands, waiting bytes, records to come), the parameters and the count of free values stay. -/
def State.afterReset (s : State) : State :=
  { s with tx := TxState.reset, rx := RxState.reset, txEv := [], rxEv := [], cmdOut := [], txPort := [] }

/-- `RESET` (R340). -/
def execReset (s : State) : Result := guarded .reset s (.next s.afterReset)

end Sys2Proof.Machine
end

