-- ==== Sys2Proof/Machine/Wire.lean ====
section
/-! DEFINITION. The wire formats on `rx_in` (spec/30_encoding.md R111, R113, R115). DEDUCED (log 7): a wire format is a block
of bytes the transport delivers, taken as that many `RX_BYTE` steps in order (spec/20_memory.md R87, spec/44_frame_receiver.md
R240, R249). -/

namespace Sys2Proof.Machine

/-- Take the bytes of a block in order while the receiver is ready; from the first byte it is not ready for, they wait in
the transport ahead of any younger byte (R240, R355). -/
def feed : List Byte → State → Result
  | [], s => .next s
  | b :: r, s =>
    if rxReady s.rx then
      match takeByte b s with
      | .next s' => feed r s'
      | .fault f => .fault f
      | .refused f => .refused f
    else .next { s with rxIn := b :: r ++ s.rxIn }

/-- WIRE_HEADER (R110, R111): the bytes of a header. -/
def execWireHeader (h : Header) (s : State) : Result :=
  guarded (.wireHeader h) s (feed (hdrBytes h) s)

/-- WIRE_TRAILER (R113): the bytes `AD DE`. -/
def execWireTrailer (s : State) : Result :=
  guarded .wireTrailer s (feed (le16 trailerMarker) s)

/-- WIRE_START (R115): the bytes `55 AA`. -/
def execWireStart (s : State) : Result :=
  guarded .wireStart s (feed (le16 startMarker) s)

end Sys2Proof.Machine
end

