-- ==== Sys2Proof/Machine/Dispatch.lean ====
section
/-! DEFINITION. One arm per constructor of Instr, each a direct call of that instruction's meaning. -/

namespace Sys2Proof.Machine

def exec (i : Instr) (s : State) : Host.Outcome State Fault Refusal :=
  match i with
  | .sendFrame width height pixelFormat payload => Sys2Proof.Machine.execSendFrame width height pixelFormat payload s
  | .txCksum => Sys2Proof.Machine.execTxCksum s
  | .txHdrWrite r => Sys2Proof.Machine.execTxHdrWrite r s
  | .txDelayDone => Sys2Proof.Machine.execTxDelayDone s
  | .txChunkWrite r => Sys2Proof.Machine.execTxChunkWrite r s
  | .txDrain r => Sys2Proof.Machine.execTxDrain r s
  | .txTrlWrite r => Sys2Proof.Machine.execTxTrlWrite r s
  | .rxByte b => Sys2Proof.Machine.execRxByte b s
  | .rxReplay => Sys2Proof.Machine.execRxReplay s
  | .rxSettle => Sys2Proof.Machine.execRxSettle s
  | .rxTimeout => Sys2Proof.Machine.execRxTimeout s
  | .ckClear u => Sys2Proof.Machine.execCkClear u s
  | .ckAdd u b => Sys2Proof.Machine.execCkAdd u b s
  | .cksum bytes => Sys2Proof.Machine.execCksum bytes s
  | .hdrEncode h => Sys2Proof.Machine.execHdrEncode h s
  | .hdrDecode w => Sys2Proof.Machine.execHdrDecode w s
  | .txStatus => Sys2Proof.Machine.execTxStatus s
  | .rxStatus => Sys2Proof.Machine.execRxStatus s
  | .reset => Sys2Proof.Machine.execReset s
  | .wireHeader h => Sys2Proof.Machine.execWireHeader h s
  | .wireTrailer => Sys2Proof.Machine.execWireTrailer s
  | .wireStart => Sys2Proof.Machine.execWireStart s

end Sys2Proof.Machine
end

