-- ==== Sys2Proof/Machine/Schedule.lean ====
section
/-! DEFINITION. Which operation moves next (logs 1, 2, 3 and 24). The trace of operation records gives the interleaving the
environment and the agents chose (spec/30_encoding.md R118; 93_implementation_defined.md I7-I12). An operation that waits is
taken up when it has a move and the trace's next record has none, or must not overtake it (R20, R200, R355). -/

namespace Sys2Proof.Machine

/-- The accumulator a micro-operation writes (R140, R141); none for any other operation. -/
def accumulator : Instr → Option CkUnit
  | .ckClear u => some u
  | .ckAdd u _ => some u
  | .sendFrame _ _ _ _ | .txCksum | .txHdrWrite _ | .txDelayDone | .txChunkWrite _ | .txDrain _ | .txTrlWrite _
  | .rxByte _ | .rxReplay | .rxSettle | .rxTimeout | .cksum _ | .hdrEncode _ | .hdrDecode _ | .txStatus
  | .rxStatus | .reset | .wireHeader _ | .wireTrailer | .wireStart => none

/-- Two operations that are taken in the order they came (R200, R355): two micro-operations on one
accumulator, or two others of one code. -/
def sameOperation (i j : Instr) : Bool :=
  match accumulator i, accumulator j with
  | none, none => i.opcode == j.opcode
  | u, v => u == v

/-- The next record can move at once: it is enabled and overtakes no waiting operation of its own kind. -/
def takeable (i : Instr) (s : State) : Bool :=
  enabled i s && !s.held.any (sameOperation i) && !(i.opcode == some .rxByte && !s.rxIn.isEmpty)

/-- The first operation of a list that has a move in `s`, and the list without it. -/
def firstEnabled (s : State) : List Instr → Option (Instr × List Instr)
  | [] => none
  | i :: r =>
    if enabled i s then some (i, r)
    else match firstEnabled s r with
      | some (j, r') => some (j, i :: r')
      | none => none

/-- The next block of the bytes waiting on `rx_in`, when the receiver is ready for it. -/
def liftInput (s : State) : Option (Instr × State) :=
  if rxReady s.rx then
    match decodeInput s.rxIn with
    | .ok (i, r) => some (i, { s with rxIn := r })
    | .error _ => none
  else none

/-- A waiting operation that has a move, taken out of where it waits: the oldest such in the hold, else the bytes waiting
on `rx_in`. -/
def lift (s : State) : Option (Instr × State) :=
  match firstEnabled s s.held with
  | some (i, r) => some (i, { s with held := r })
  | none => liftInput s

/-- The internal steps need nothing from outside the block (R118, R202, R241, R242). With every record taken and nothing that
waits able to move, the one that is enabled goes on by itself. The agents share nothing, so which agent's goes first does
not matter (R30; log 24). -/
def internal (s : State) : Option (Instr × State) :=
  if enabled .txCksum s then some (.txCksum, s)
  else if enabled .rxReplay s then some (.rxReplay, s)
  else if enabled .rxSettle s then some (.rxSettle, s)
  else none

/-- The operation that moves next and the state without it; none when the block waits (R321). With no record left, a
waiting operation moves if it can, else an internal step. With a record left, that record moves, unless it has no move now
or would overtake one of its kind while a waiting operation can move; then the waiting operation moves first. -/
def nextOp (s : State) : Except DecodeError (Option (Instr × State)) :=
  match s.trace with
  | [] => .ok ((lift s).or (internal s))
  | b :: r =>
    match decode (b :: r) with
    | .error e => .error e
    | .ok (i, rest) =>
      if takeable i s then .ok (some (i, { s with trace := rest }))
      else match lift s with
        | some m => .ok (some m)
        | none => .ok (some (i, { s with trace := rest }))

end Sys2Proof.Machine
end

