-- ==== Sys2Proof/Machine/Step.lean ====
section
/-! DEFINITION. One step of the machine, and how an instruction is placed where the next step finds it. -/

namespace Sys2Proof.Machine

/-- One step: the operation that moves next (log 1). An invalid record is refused (R120, I4). With nothing that can move
the block waits and all state survives the wait (R321). -/
def step (s : State) : Host.Outcome State Fault Refusal :=
  match nextOp s with
  | .error e => .refused (.invalidRecord e)
  | .ok none => .next s
  | .ok (some (i, s')) => exec i s'

/-- `s` with a table word's instruction placed so that the very next step runs it: an operation record at the head of the
trace, or a wire format at the head of the bytes waiting on `rx_in` with no record before it (log 1). Nothing else is
left waiting, so that nothing moves first. -/
def State.withFetchWord (s : State) (nbits w : Nat) : State :=
  match wireFormat? (layoutWord nbits w) with
  | some _ => { s with trace := [], held := [], rxIn := layoutWord nbits w }
  | none => { s with trace := layoutWord nbits w ++ wordPadding, held := [], rxIn := [] }

end Sys2Proof.Machine
end

