-- ==== Sys2Proof/Machine/Pseudo.lean ====
section
/-! DEFINITION. Sequences of operations and the pseudo-operations of spec/30_encoding.md R123, each expanded to the operations
it stands for. -/

namespace Sys2Proof.Machine

/-- The operations of a list one after another, stopping at the first fault or refusal. -/
def runOps : List Instr → State → Result
  | [], s => .next s
  | i :: r, s =>
    match exec i s with
    | .next s' => runOps r s'
    | .fault f => .fault f
    | .refused x => .refused x

/-- The step of `RX_REPLAY` and `RX_SETTLE` that is enabled; never both are (R118). -/
def rxMove (s : State) : Option Instr :=
  if enabled .rxReplay s then some .rxReplay
  else if enabled .rxSettle s then some .rxSettle
  else none

/-- `RX_REPLAY` and `RX_SETTLE` while either is enabled: at most the first `Nat` of them, and the state they lead to. -/
def drainFrom : Nat → State → List Instr × State
  | 0, s => ([], s)
  | k + 1, s =>
    match rxMove s with
    | none => ([], s)
    | some i =>
      match exec i s with
      | .next s' => (i :: (drainFrom k s').1, (drainFrom k s').2)
      | .fault _ | .refused _ => ([i], s)

/-- More steps than `DRAIN_RX` can take. A replay step takes a byte off `rx.replay`, and the bytes held fall by one where
it puts any back (R235); a settle step stands alone or before one other (R242, R243). -/
def drainBound (rx : RxState) : Nat := 3 * (rx.win.length + rx.replay.length + 2) ^ 2

/-- `DRAIN_RX` (R123). -/
def drainRx (s : State) : List Instr × State := drainFrom (drainBound s.rx) s

/-- `FEED` (R123): one `RX_BYTE` per byte in order, under the eager schedule. -/
def feedEager : List Byte → State → List Instr × State
  | [], s => drainRx s
  | b :: r, s =>
    match exec (.rxByte b) (drainRx s).2 with
    | .next s' => ((drainRx s).1 ++ .rxByte b :: (feedEager r s').1, (feedEager r s').2)
    | .fault _ | .refused _ => ((drainRx s).1 ++ [.rxByte b], (drainRx s).2)

/-- The chunk writes and drains of `TX_RUN_OK` for `rest` unsent bytes and chunks of at most `c` (R123); `fuel` bounds
their number. -/
def fullChunks (c : Nat) : Nat → Nat → List Instr
  | 0, _ => []
  | fuel + 1, rest =>
    if rest = 0 then []
    else .txChunkWrite (.count (BitVec.ofNat 32 (min c rest))) :: .txDrain .done ::
      fullChunks c fuel (rest - min c rest)

/-- `TX_RUN_OK` for a payload of `len` bytes and `MAX_CHUNK_SIZE` = `c` (R123). -/
def txRunOk (c len : Nat) : List Instr :=
  [.txCksum, .txHdrWrite (.count (BitVec.ofNat 32 hdrLen)), .txDelayDone] ++ fullChunks c len len ++
    [.txTrlWrite (.count (BitVec.ofNat 32 trlLen))]

/-- The pseudo-operations (R123). -/
inductive Pseudo where
  | feed (bytes : List Byte)
  | drainRx
  | txRunOk
deriving DecidableEq, Repr

/-- The operations a pseudo-operation stands for in a state. `TX_RUN_OK` is given from `Checksum`; elsewhere it stands for
none. -/
def Pseudo.ops (p : Pseudo) (s : State) : List Instr :=
  match p with
  | .feed bytes => (feedEager bytes s).1
  | .drainRx => (Sys2Proof.Machine.drainRx s).1
  | .txRunOk =>
    match s.tx.state, s.tx.payload with
    | .checksum, some payload => Sys2Proof.Machine.txRunOk s.params.maxChunkSize.toNat payload.length
    | _, _ => []

end Sys2Proof.Machine
end

