-- ==== Sys2Proof/Safety.lean ====
section
/-! DEFINITION. The terms claims use: frames on the wire, the invariants of spec/10_state.md R35 and R39, the premises of
spec/70_reset_and_hazards.md R346 and R347, and which agent performs an operation (spec/30_encoding.md R118). -/

namespace Sys2Proof

/-! ## Agents (R118) -/

/-- The operations of the TX agent: `SEND_FRAME` and the steps of the sequencer. -/
def Instr.isTx : Instr → Bool
  | .sendFrame _ _ _ _ | .txCksum | .txHdrWrite _ | .txDelayDone | .txChunkWrite _ | .txDrain _ | .txTrlWrite _ => true
  | .rxByte _ | .rxReplay | .rxSettle | .rxTimeout | .ckClear _ | .ckAdd _ _ | .cksum _ | .hdrEncode _
  | .hdrDecode _ | .txStatus | .rxStatus | .reset | .wireHeader _ | .wireTrailer | .wireStart => false

/-- The steps of the TX sequencer, which carry one accepted frame to its result (R201). -/
def Instr.isTxStep : Instr → Bool
  | .txCksum | .txHdrWrite _ | .txDelayDone | .txChunkWrite _ | .txDrain _ | .txTrlWrite _ => true
  | .sendFrame _ _ _ _ | .rxByte _ | .rxReplay | .rxSettle | .rxTimeout | .ckClear _ | .ckAdd _ _ | .cksum _
  | .hdrEncode _ | .hdrDecode _ | .txStatus | .rxStatus | .reset | .wireHeader _ | .wireTrailer | .wireStart => false

/-- The operations of the RX agent, the blocks of bytes on `rx_in` among them (log 7). -/
def Instr.isRx : Instr → Bool
  | .rxByte _ | .rxReplay | .rxSettle | .rxTimeout | .wireHeader _ | .wireTrailer | .wireStart => true
  | .sendFrame _ _ _ _ | .txCksum | .txHdrWrite _ | .txDelayDone | .txChunkWrite _ | .txDrain _ | .txTrlWrite _
  | .ckClear _ | .ckAdd _ _ | .cksum _ | .hdrEncode _ | .hdrDecode _ | .txStatus | .rxStatus | .reset => false

/-- The combinational functions and the status reads, which write no field of either agent (R143, R168, R270, R271). -/
def Instr.isRead : Instr → Bool
  | .cksum _ | .hdrEncode _ | .hdrDecode _ | .txStatus | .rxStatus => true
  | .sendFrame _ _ _ _ | .txCksum | .txHdrWrite _ | .txDelayDone | .txChunkWrite _ | .txDrain _ | .txTrlWrite _
  | .rxByte _ | .rxReplay | .rxSettle | .rxTimeout | .ckClear _ | .ckAdd _ _ | .reset | .wireHeader _
  | .wireTrailer | .wireStart => false

end Sys2Proof

namespace Sys2Proof.Machine

/-! ## Wire and requests -/

/-- A frame on the wire: header, payload, trailer (R114). -/
def wireImage (h : Header) (payload : List Byte) : List Byte :=
  hdrBytes h ++ payload ++ le16 trailerMarker

/-- A write request in the log of `tx_write` and `tx_drain`. -/
def TxRequest.isWrite : TxRequest → Bool
  | .write _ _ => true
  | .drain _ _ => false

/-! ## Runs of one agent -/

/-- A run of TX sequencer steps, each enabled where it is taken and answered with an admitted response. -/
def TxRun : List Instr → State → Prop
  | [], _ => True
  | i :: r, s => i.isTxStep = true ∧ enabled i s = true ∧ ∃ s', exec i s = .next s' ∧ TxRun r s'

/-! ## Invariants (R34, R35, R39) -/

/-- Where `tx.offset` can stand in a payload of `len` bytes (R35). -/
def offsetOk : TxSt → Nat → Nat → Prop
  | .idle, off, _ => off = 0
  | .checksum, off, _ | .writeHeader, off, _ | .delay, off, _ => off = 0
  | .writeChunk, off, len => off < len
  | .drain, off, len => off ≤ len
  | .writeTrailer, off, len => off = len

/-- The invariants of the TX state (R34, R35), but for its accumulator: in `Idle` no frame is held; in the other states
the frame's four fields are there, and from `WriteHeader` on the encoded header of that frame is. -/
def TxInv (tx : TxState) : Prop :=
  tx.bytesSent = tx.offset ∧
  match tx.state with
  | .idle =>
    tx.width = none ∧ tx.height = none ∧ tx.pixelFormat = none ∧ tx.payload = none ∧ tx.hdr = none ∧ tx.offset = 0
  | st =>
    ∃ width height pixelFormat payload,
      tx.width = some width ∧ tx.height = some height ∧ tx.pixelFormat = some pixelFormat ∧
      tx.payload = some payload ∧ fitsU32 payload ∧
      tx.hdr = (if st = .checksum then none
        else some (hdrEncode (frameHeader width height pixelFormat tx.frameId payload))) ∧
      offsetOk st tx.offset.toNat payload.length

/-- The invariants of the RX state (R39), but for its accumulator, and which fields are absent in which state (R37). The
bounds on `rx.replay` are R39's, sharpened so that every step keeps them (log 25); that `rx.prev` is absent while its flag is clear is log 12. -/
def RxInv (p : Params) (rx : RxState) : Prop :=
  rx.replay.length < hdrLen ∧ rx.prevValid = rx.prev.isSome ∧
  match rx.state with
  | .scanning =>
    rx.win = [] ∧ rx.payload = [] ∧ rx.trl = [] ∧ rx.hdr = none ∧ rx.err = none ∧
      (rx.replay.length + 1 = hdrLen → rx.prevValid = false)
  | .headerPartial =>
    (∃ r, rx.win = le16 startMarker ++ r) ∧ rx.win.length + rx.replay.length < hdrLen ∧ rx.prevValid = false ∧
      rx.payload = [] ∧ rx.trl = [] ∧ rx.hdr = none ∧ rx.err = none
  | .payloadPartial =>
    rx.replay = [] ∧ rx.prevValid = false ∧ rx.win = [] ∧ rx.trl = [] ∧ rx.err = none ∧
      ∃ h, rx.hdr = some h ∧ rx.payload.length < h.dataLength.toNat ∧ h.dataLength ≤ p.maxPayloadLen
  | .trailerPartial =>
    rx.replay = [] ∧ rx.prevValid = false ∧ rx.win = [] ∧ rx.trl.length < trlLen ∧ rx.err = none ∧
      ∃ h, rx.hdr = some h ∧ rx.payload.length = h.dataLength.toNat ∧ h.dataLength ≤ p.maxPayloadLen
  | .complete =>
    rx.replay = [] ∧ rx.prevValid = false ∧ rx.win = [] ∧ rx.trl = le16 trailerMarker ∧ rx.err = none ∧
      ∃ h, rx.hdr = some h ∧ rx.payload.length = h.dataLength.toNat ∧ h.dataLength ≤ p.maxPayloadLen
  | .invalid => rx.prevValid = false ∧ ∃ e, rx.err = some e

/-- The accumulator clause of R35: in states 2-6 `tx.sum` is the payload's checksum. -/
def TxSumInv (tx : TxState) : Prop :=
  match tx.state with
  | .idle | .checksum => True
  | _ => ∀ payload, tx.payload = some payload → tx.sum = cksum payload

/-- The accumulator clause of R39: while a payload is gathered and checked `rx.sum` is its checksum. -/
def RxSumInv (rx : RxState) : Prop :=
  match rx.state with
  | .payloadPartial | .trailerPartial | .complete => rx.sum = cksum rx.payload
  | _ => True

/-- Both agents meet their invariants (R35, R39), but for the accumulator clauses. -/
def BlockInv (s : State) : Prop := TxInv s.tx ∧ RxInv s.params s.rx

/-- Both accumulator clauses. -/
def SumInv (s : State) : Prop := TxSumInv s.tx ∧ RxSumInv s.rx

/-- No record of the trace moves before what waits: none is left; or the next is not enabled, or it would overtake a held
operation of its kind, or a byte that waits on `rx_in` (logs 1, 2 and 3). -/
def RecordMustWait (s : State) : Prop :=
  s.trace = [] ∨ ∃ i rest, decode s.trace = .ok (i, rest) ∧
    (enabled i s = false ∨ (∃ j ∈ s.held, sameOperation i j = true) ∨ ((∃ b, i = .rxByte b) ∧ s.rxIn ≠ []))

/-! ## Named premises -/

/-- `CleanEntry` (R346). -/
def CleanEntry (s : State) : Prop :=
  s.tx = TxState.reset ∧ s.rx = RxState.reset ∧ s.held = [] ∧ s.rx.replay = [] ∧
    s.tx.wire = [] ∧ s.rx.input = [] ∧ s.txEv = [] ∧ s.rxEv = []

/-- `Quiescent` (R347): the environment offers no further input when no record is to come and no byte waits. -/
def Quiescent (s : State) : Prop :=
  s.tx.state = .idle ∧ s.rx.state = .scanning ∧ s.rx.replay = [] ∧ s.held = [] ∧ s.trace = [] ∧ s.rxIn = []

/-- `NoRxTimeoutDuring` (R361) for the operations of a list. -/
def NoRxTimeoutDuring (ops : List Instr) : Prop := .rxTimeout ∉ ops

/-- No operation of the list ends in a refusal: the premise of claims that 93_implementation_defined.md names. -/
def NoRefusal (ops : List Instr) (s : State) : Prop := ∀ r, runOps ops s ≠ .refused r

end Sys2Proof.Machine
end

