-- ==== Sys2Proof/Certificates/Slice0/Obligations.lean ====
section
/-! DEFINITION. The statements for the provers. Each formalises the rules of spec/ its docstring names. -/

open Sys2Proof Sys2Proof.Machine

/-! ## Encoding -/

/-- R118, R119, R121: the record of every well-formed operation decodes to it with every operand at every value, whatever
bytes follow; and the bytes of every wire format (R110, R113, R115) are read as it. -/
def Obligations.DecodeEncodeAgree : Prop :=
  (∀ i rest, i.WellFormed → i.port = .record → decode (encode i ++ rest) = .ok (i, rest)) ∧
  (∀ i, i.port = .input → decodeInput (encode i) = .ok (i, []))

/-- R117, R119, R121: a record that decodes is the record of the operation it decodes to, so no bit of it is dropped. -/
def Obligations.DecodedRecordIsItsEncoding : Prop :=
  ∀ s i rest, decode s = .ok (i, rest) → s = encode i ++ rest ∧ i.WellFormed ∧ i.port = .record

/-- R120: what the record decoder rejects: every code that spells no operation, every tag, drain byte and unit that is not
admitted, and every record shorter than its operands. -/
def Obligations.InvalidRecordsRejected : Prop :=
  (∀ (c : Byte) s,
    (c.toNat = 0x00 ∨ (0x08 ≤ c.toNat ∧ c.toNat ≤ 0x0F) ∨ (0x14 ≤ c.toNat ∧ c.toNat ≤ 0x1F) ∨
      (0x23 ≤ c.toNat ∧ c.toNat ≤ 0x2F) ∨ (0x32 ≤ c.toNat ∧ c.toNat ≤ 0x3F) ∨
      (0x42 ≤ c.toNat ∧ c.toNat ≤ 0x7E) ∨ 0x80 ≤ c.toNat) →
    decode (c :: s) = .error (.reservedCode c)) ∧
  (∀ (c tag : Byte) s, (c = 0x03 ∨ c = 0x05 ∨ c = 0x07) → tag ≠ 0x00 → tag ≠ 0x01 →
    decode (c :: tag :: s) = .error (.badWriteTag tag)) ∧
  (∀ (b : Byte) s, b ≠ 0x00 → b ≠ 0x01 → decode (0x06 :: b :: s) = .error (.badDrainByte b)) ∧
  (∀ (c u : Byte) s, (c = 0x20 ∨ c = 0x21) → u ≠ 0x00 → u ≠ 0x01 →
    decode (c :: u :: s) = .error (.badUnit u)) ∧
  (∀ i n, i.WellFormed → i.port = .record → n < (encode i).length →
    decode ((encode i).take n) = .error .shortRecord)

/-- R118, R119: words written out from the spec's record layouts, one or more of every family. The last two clauses, that a
trailer and a start marker (R113, R115) on `rx_in` are read as instructions, rest on the model's reading of the wire formats
(log 7, DEDUCED). -/
def Obligations.SpecRecordsDecode : Prop :=
  decode [0x01, 0x02, 0x00, 0x01, 0x00, 0x00, 0x00, 0x04, 0x00, 0x00, 0x00, 0x01, 0x02, 0x03, 0xFF] =
    .ok (.sendFrame 2 1 0 [1, 2, 3, 0xFF], []) ∧
  decode [0x03, 0x00, 0x14, 0x00, 0x00, 0x00] = .ok (.txHdrWrite (.count 20), []) ∧
  decode [0x05, 0x01] = .ok (.txChunkWrite .fail, []) ∧
  decode [0x06, 0x01] = .ok (.txDrain .timeout, []) ∧
  decode [0x10, 0x55] = .ok (.rxByte 0x55, []) ∧
  decode [0x21, 0x00, 0xFF] = .ok (.ckAdd .tx 0xFF, []) ∧
  decode [0x30, 0x02, 0x00, 0x01, 0x00, 0x04, 0x00, 0x00, 0x00, 0x00, 0x00, 0x00, 0x00, 0x05, 0x01, 0x00, 0x00] =
    .ok (.hdrEncode ⟨2, 1, 4, 0, 0, 0x105⟩, []) ∧
  decode [0x41] = .ok (.rxStatus, []) ∧
  decode [0x7F] = .ok (.reset, []) ∧
  decodeInput [0xAD, 0xDE] = .ok (.wireTrailer, []) ∧
  decodeInput [0x55, 0xAA] = .ok (.wireStart, [])

/-! ## The step -/

/-- Logs 1, 2, 3 and 26 (the trace is the model's): a record that decodes, is enabled and overtakes no waiting operation of its kind is
what the step runs, on the state without that record. -/
def Obligations.StepRunsDecodedInstruction : Prop :=
  ∀ (s : State) i rest, s.trace ≠ [] → decode s.trace = .ok (i, rest) → enabled i s = true →
    (∀ h ∈ s.held, sameOperation i h = false) → (i.opcode = some .rxByte → s.rxIn = []) →
    step s = exec i { s with trace := rest }

/-- R20, R240, R355, logs 1, 2, 3, 7 and 24: while the next record must wait, or none is left, the oldest held operation that is
enabled is what the step runs. With no held operation enabled and the receiver ready, the block that the bytes waiting on
`rx_in` begin with is what the step runs, without that block: a whole header, else a trailer or a start marker, else one
byte. With nothing that waits able to move, the next record is run, whether it is enabled or comes to wait itself. With no
record left and nothing that waits able to move, an internal step (`TX_CKSUM`, `RX_REPLAY`, `RX_SETTLE`) goes on by itself. -/
def Obligations.WaitingMovesOldestFirst : Prop :=
  (∀ (s : State) i before after, RecordMustWait s → s.held = before ++ i :: after →
    (∀ h ∈ before, enabled h s = false) → enabled i s = true →
    step s = exec i { s with held := before ++ after }) ∧
  (∀ (s : State) i rest, RecordMustWait s → (∀ h ∈ s.held, enabled h s = false) → rxReady s.rx = true →
    decodeInput s.rxIn = .ok (i, rest) → step s = exec i { s with rxIn := rest }) ∧
  (∀ h r, decodeInput (encode (.wireHeader h) ++ r) = .ok (.wireHeader h, r)) ∧
  (∀ r, (∀ h rest, 0x55 :: 0xAA :: r ≠ encode (.wireHeader h) ++ rest) →
    decodeInput (0x55 :: 0xAA :: r) = .ok (.wireStart, r)) ∧
  (∀ r, decodeInput (0xAD :: 0xDE :: r) = .ok (.wireTrailer, r)) ∧
  (∀ (b : Byte) r, (b = 0x55 → r.head? ≠ some 0xAA) → (b = 0xAD → r.head? ≠ some 0xDE) →
    decodeInput (b :: r) = .ok (.rxByte b, r)) ∧
  (∀ (s : State) j rest, decode s.trace = .ok (j, rest) →
    (∀ h ∈ s.held, enabled h s = false) → (s.rxIn = [] ∨ rxReady s.rx = false) →
    step s = exec j { s with trace := rest }) ∧
  (∀ s : State, s.trace = [] → (∀ h ∈ s.held, enabled h s = false) → (s.rxIn = [] ∨ rxReady s.rx = false) →
    (s.tx.state = .checksum → step s = exec .txCksum s) ∧
    (s.tx.state ≠ .checksum → s.rx.state.takesBytes = true → s.rx.replay ≠ [] → step s = exec .rxReplay s) ∧
    (s.tx.state ≠ .checksum → s.rx.state.takesBytes = false → step s = exec .rxSettle s))

/-- R321, R347: an agent with no enabled step waits and all state survives the wait: with no operation offered that has a
move, and no internal step enabled, a step changes nothing; so it is in a quiescent block. -/
def Obligations.NothingEnabledWaits : Prop :=
  (∀ s : State, s.trace = [] → (∀ h ∈ s.held, enabled h s = false) → s.rxIn = [] →
    s.tx.state ≠ .checksum → s.rx.state.takesBytes = true → s.rx.replay = [] → step s = .next s) ∧
  (∀ s : State, Quiescent s → step s = .next s)

/-- R20, R200, R240, logs 2 and 3: an operation that is not enabled leaves every field as it was and waits: an input in
the transport's bytes, any other in the hold. -/
def Obligations.DisabledOperationsWait : Prop :=
  ∀ i (s : State), i.WellFormed → enabled i s = false →
    exec i s = .next (match inputBytes i with
      | some bs => { s with rxIn := s.rxIn ++ bs }
      | none => { s with held := s.held ++ [i] })

/-- R20, R88, R120, R209, logs 14, 15 and 16: the meanings refuse nothing but a count above the request's length and a
payload no record can express; and a step never runs an invalid record, it refuses it. -/
def Obligations.OnlyListedRefusals : Prop :=
  (∀ (s : State) e, s.trace ≠ [] → decode s.trace = .error e → step s = .refused (.invalidRecord e)) ∧
  ∀ i (s : State) r, exec i s = .refused r →
    (r = .payloadTooLong ∧ ∃ w h f p, i = .sendFrame w h f p ∧ 2 ^ 32 ≤ p.length) ∨
    (r = .countExceedsRequest ∧ ∃ n : U32,
      (i = .txHdrWrite (.count n) ∧ 20 < n.toNat) ∨ (i = .txTrlWrite (.count n) ∧ 2 < n.toNat) ∨
      (i = .txChunkWrite (.count n) ∧ ∃ p, s.tx.payload = some p ∧ (chunk s.params p s.tx.offset).length < n.toNat))

/-- R9, R188, R32, R36 (I1, I2): an instance is made of exactly the legal sizes, with `MAX_CHUNK_SIZE` = 0 refused, and so is a
size of 2^32 or more, which R9 does not admit (log 10: the refusal's name is the model's); a state
code is the code of the state it names, and the codes no state has are refused. -/
def Obligations.ConfigurationAndCodesRefused : Prop :=
  (∀ (c m d y r : Nat) ports line, 1 ≤ c → c < 2 ^ 32 → m < 2 ^ 32 →
    ∃ p, instantiate c m d y r ports line = .ok p ∧ p.maxChunkSize.toNat = c ∧ p.maxPayloadLen.toNat = m) ∧
  (∀ (m d y r : Nat) ports line, m < 2 ^ 32 → instantiate 0 m d y r ports line = .error .zeroChunkSize) ∧
  (∀ (c m d y r : Nat) ports line, 2 ^ 32 ≤ c ∨ 2 ^ 32 ≤ m →
    instantiate c m d y r ports line = .error .parameterOutOfRange) ∧
  (∀ st : TxSt, TxSt.ofCode st.code = .ok st) ∧ TxSt.ofCode 7 = .error (.unreachableStateCode 7) ∧
  (∀ st : RxSt, RxSt.ofCode st.code = .ok st) ∧ RxSt.ofCode 6 = .error (.unreachableStateCode 6) ∧
  RxSt.ofCode 7 = .error (.unreachableStateCode 7)

/-! ## Checksum unit -/

/-- R140, R141: clear and add on either accumulator while it belongs to no frame (R33, R37), every other field unchanged; while
a frame's checksum is in it they wait (log 13, DEDUCED). That bytes after their records belong to the next record is log 26
(DEDUCED). -/
def Obligations.AccumulatorMicroOperations : Prop :=
  ∀ (s : State) (b : Byte) rest,
    (s.tx.state = .idle ∨ s.tx.state = .checksum →
      exec (.ckClear .tx) s = .next { s with tx := { s.tx with sum := 0 } } ∧
      exec (.ckAdd .tx b) s =
        .next { s with tx := { s.tx with sum := BitVec.ofNat 32 (s.tx.sum.toNat + b.toNat) } }) ∧
    (s.rx.state = .scanning ∨ s.rx.state = .headerPartial →
      exec (.ckClear .rx) s = .next { s with rx := { s.rx with sum := 0 } } ∧
      exec (.ckAdd .rx b) s =
        .next { s with rx := { s.rx with sum := BitVec.ofNat 32 (s.rx.sum.toNat + b.toNat) } }) ∧
    (s.tx.state ≠ .idle → s.tx.state ≠ .checksum →
      exec (.ckClear .tx) s = .next { s with held := s.held ++ [.ckClear .tx] } ∧
      exec (.ckAdd .tx b) s = .next { s with held := s.held ++ [.ckAdd .tx b] }) ∧
    (s.rx.state ≠ .scanning → s.rx.state ≠ .headerPartial →
      exec (.ckClear .rx) s = .next { s with held := s.held ++ [.ckClear .rx] } ∧
      exec (.ckAdd .rx b) s = .next { s with held := s.held ++ [.ckAdd .rx b] }) ∧
    decode (0x20 :: 0x00 :: rest) = .ok (.ckClear .tx, rest) ∧
    decode (0x20 :: 0x01 :: rest) = .ok (.ckClear .rx, rest) ∧
    decode (0x21 :: 0x00 :: b :: rest) = .ok (.ckAdd .tx b, rest) ∧
    decode (0x21 :: 0x01 :: b :: rest) = .ok (.ckAdd .rx b, rest)

/-- R142, R143: the checksum is the sum of the byte values modulo 2^32, and `CKSUM` returns it and changes no field of
the block. For more bytes than a record can hold this is the model's (log 22, DEDUCED). -/
def Obligations.ChecksumIsSumOfBytes : Prop :=
  ∀ (bytes : List Byte) (s : State),
    cksum bytes = BitVec.ofNat 32 (bytes.map BitVec.toNat).sum ∧
    exec (.cksum bytes) s =
      .next { s with cmdOut := s.cmdOut ++ [.word (BitVec.ofNat 32 (bytes.map BitVec.toNat).sum)] }

/-- R144: the checksum does not depend on the order of the bytes. -/
def Obligations.ChecksumIgnoresOrder : Prop :=
  ∀ s t : List Byte, s.Perm t → cksum s = cksum t

/-- R145: changing exactly one byte always changes the checksum; changes to two bytes can cancel. -/
def Obligations.OneByteChangeIsDetected : Prop :=
  (∀ (before after : List Byte) (a b : Byte), a ≠ b →
    cksum (before ++ a :: after) ≠ cksum (before ++ b :: after)) ∧
  (∀ (before between after : List Byte) (a b : Byte), a.toNat < 255 → 0 < b.toNat →
    cksum (before ++ a :: between ++ b :: after) = cksum (before ++ (a + 1) :: between ++ (b - 1) :: after))

/-- R146: clear, then one add per byte in any order, leaves the checksum of the bytes in the accumulator, and nothing else
changes; on either accumulator while it belongs to no frame (log 13). -/
def Obligations.IncrementalChecksumAgrees : Prop :=
  ∀ (s : State) (bytes order : List Byte), bytes.Perm order →
    (s.tx.state = .idle ∨ s.tx.state = .checksum →
      runOps (.ckClear .tx :: order.map (.ckAdd .tx)) s = .next { s with tx := { s.tx with sum := cksum bytes } }) ∧
    (s.rx.state = .scanning ∨ s.rx.state = .headerPartial →
      runOps (.ckClear .rx :: order.map (.ckAdd .rx)) s = .next { s with rx := { s.rx with sum := cksum bytes } })

/-! ## Header codec -/

/-- R160, R110, R165: the 20 bytes of an encoded header, written out field by field, for every record; `HDR_ENCODE`
returns them and changes no field of the block. -/
def Obligations.HeaderEncodesToLayout : Prop :=
  ∀ (h : Header) (s : State),
    ((hdrEncode h).toList.map BitVec.toNat =
      [0x55, 0xAA,
       h.width.toNat % 256, h.width.toNat / 256,
       h.height.toNat % 256, h.height.toNat / 256,
       h.dataLength.toNat % 256, h.dataLength.toNat / 256 % 256,
       h.dataLength.toNat / 65536 % 256, h.dataLength.toNat / 16777216,
       h.pixelFormat.toNat % 256, h.pixelFormat.toNat / 256,
       h.frameId.toNat % 256, h.frameId.toNat / 256,
       h.checksum.toNat % 256, h.checksum.toNat / 256 % 256,
       h.checksum.toNat / 65536 % 256, h.checksum.toNat / 16777216,
       0xAA, 0x55]) ∧
    exec (.hdrEncode h) s = .next { s with cmdOut := s.cmdOut ++ [.header (hdrEncode h)] }

/-- R161, R162, R166: the verdict of the decoder on every 20-byte window, from the bytes themselves: the sentinel check
first, then the inclusive bound; `HDR_DECODE` returns the verdict and changes no field of the block. -/
def Obligations.HeaderDecodeVerdict : Prop :=
  ∀ (w : Vector Byte 20) (s : State),
    let v := fun k : Fin 20 => (w[k]).toNat
    let length := v 6 + 256 * v 7 + 65536 * v 8 + 16777216 * v 9
    exec (.hdrDecode w) s = .next { s with cmdOut := s.cmdOut ++
      [if v 0 + 256 * v 1 ≠ 0xAA55 ∨ v 18 + 256 * v 19 ≠ 0x55AA then .decodeFailed .malformedHeader
       else if s.params.maxPayloadLen.toNat < length then .decodeFailed .payloadTooLarge
       else .decoded
        { width       := BitVec.ofNat 16 (v 2 + 256 * v 3)
          height      := BitVec.ofNat 16 (v 4 + 256 * v 5)
          dataLength  := BitVec.ofNat 32 length
          pixelFormat := BitVec.ofNat 16 (v 10 + 256 * v 11)
          frameId     := BitVec.ofNat 16 (v 12 + 256 * v 13)
          checksum    := BitVec.ofNat 32 (v 14 + 256 * v 15 + 65536 * v 16 + 16777216 * v 17) }] }

/-- R163, R164: a header round-trips when its length is within the maximum, and otherwise decodes to `PayloadTooLarge`;
re-encoding an accepted window gives the window back. -/
def Obligations.HeaderRoundTrips : Prop :=
  (∀ (m : U32) (h : Header),
    (h.dataLength ≤ m → hdrDecode m (hdrEncode h) = .ok h) ∧
    (h.dataLength > m → hdrDecode m (hdrEncode h) = .error .payloadTooLarge)) ∧
  (∀ (m : U32) (w : Vector Byte 20) (h : Header), hdrDecode m w = .ok h → hdrEncode h = w)

/-- R111, R82: the header as one 160-bit little-endian integer has its fields at the stated bits, and the marker check is
the mask and match. -/
def Obligations.HeaderAsInteger : Prop :=
  ∀ w : Vector Byte 20,
    let H := w.toList.foldr (fun (b : Byte) n => b.toNat + 256 * n) 0
    (hdrFields w).width.toNat = H / 2 ^ 16 % 2 ^ 16 ∧
    (hdrFields w).height.toNat = H / 2 ^ 32 % 2 ^ 16 ∧
    (hdrFields w).dataLength.toNat = H / 2 ^ 48 % 2 ^ 32 ∧
    (hdrFields w).pixelFormat.toNat = H / 2 ^ 80 % 2 ^ 16 ∧
    (hdrFields w).frameId.toNat = H / 2 ^ 96 % 2 ^ 16 ∧
    (hdrFields w).checksum.toNat = H / 2 ^ 112 % 2 ^ 32 ∧
    (markersGood w = true ↔
      H &&& 0xFFFF00000000000000000000000000000000FFFF = 0x55AA00000000000000000000000000000000AA55)

/-! ## Frame sender -/

/-- R200, R209: `SEND_FRAME` in `Idle` captures the frame; in any other state it is held; a payload longer than 2^32-1
bytes is refused. -/
def Obligations.SendFrameCapturesOrIsHeld : Prop :=
  ∀ (s : State) (width height pixelFormat : U16) (payload : List Byte),
    (payload.length < 2 ^ 32 → s.tx.state = .idle →
      exec (.sendFrame width height pixelFormat payload) s = .next { s with tx := { s.tx with
        width := some width, height := some height, pixelFormat := some pixelFormat, payload := some payload
        offset := 0, bytesSent := 0, state := .checksum } }) ∧
    (payload.length < 2 ^ 32 → s.tx.state ≠ .idle →
      exec (.sendFrame width height pixelFormat payload) s =
        .next { s with held := s.held ++ [.sendFrame width height pixelFormat payload] }) ∧
    (2 ^ 32 ≤ payload.length →
      exec (.sendFrame width height pixelFormat payload) s = .refused .payloadTooLong)

/-- R202: `TX_CKSUM`, code 02, puts the checksum of the payload into `tx.sum` and the encoded header into `tx.hdr`; the
header carries the counter as it stands. That bytes after the code belong to the next record is log 26, and that the length
is taken as a u32 where the payload's length is not bounded is log 23 (both DEDUCED). -/
def Obligations.TxCksumBuildsHeader : Prop :=
  (∀ rest, decode (0x02 :: rest) = .ok (.txCksum, rest)) ∧
  ∀ (s : State) width height pixelFormat payload, s.tx.state = .checksum →
    s.tx.width = some width → s.tx.height = some height → s.tx.pixelFormat = some pixelFormat →
    s.tx.payload = some payload →
    exec .txCksum s = .next { s with tx := { s.tx with
      sum := cksum payload
      hdr := some (hdrEncode
        { width := width, height := height, dataLength := BitVec.ofNat 32 payload.length,
          pixelFormat := pixelFormat, frameId := s.tx.frameId, checksum := cksum payload })
      state := .writeHeader } }

/-- R207, R312: `finish(code)` emits the one result with the identifier carried and the bytes sent, advances the counter
modulo 2^16, clears the frame and returns TX to `Idle`; the wire log and everything else stay. -/
def Obligations.FinishEndsAttempt : Prop :=
  ∀ (s : State) code, finish code s = { s with
    txEv := s.txEv ++ [{ code := code, frameId := s.tx.frameId, bytesSent := s.tx.bytesSent }]
    tx := { state := .idle, frameId := BitVec.ofNat 16 (s.tx.frameId.toNat + 1), width := none, height := none,
            pixelFormat := none, payload := none, sum := 0, hdr := none, offset := 0, bytesSent := 0,
            wire := s.tx.wire } }

/-- R203: the header write, for every response. -/
def Obligations.HeaderWriteResult : Prop :=
  ∀ (s : State) (hdr : Vector Byte 20), s.tx.state = .writeHeader → s.tx.hdr = some hdr →
    (exec (.txHdrWrite (.count 20)) s = .next { s with
      tx := { s.tx with wire := s.tx.wire ++ hdr.toList, state := .delay }
      txPort := s.txPort ++ [.write hdr.toList (.count 20)] }) ∧
    (∀ n : U32, n.toNat < 20 → exec (.txHdrWrite (.count n)) s = .next (finish .headerWriteError { s with
      tx := { s.tx with wire := s.tx.wire ++ hdr.toList.take n.toNat }
      txPort := s.txPort ++ [.write hdr.toList (.count n)] })) ∧
    (∃ k ≤ 20, exec (.txHdrWrite .fail) s = .next (finish .headerWriteError { s with
      tx := { s.tx with wire := s.tx.wire ++ hdr.toList.take k }
      txPort := s.txPort ++ [.write hdr.toList .fail], draws := s.draws + 1 })) ∧
    (∀ n : U32, 20 < n.toNat → exec (.txHdrWrite (.count n)) s = .refused .countExceedsRequest)

/-- R204: `TX_DELAY_DONE`, code 04: the end of the pacing delay leads to the chunks, or with an empty payload straight to the
trailer. That bytes after the code belong to the next record is log 26 (DEDUCED). -/
def Obligations.DelayDoneResult : Prop :=
  (∀ rest, decode (0x04 :: rest) = .ok (.txDelayDone, rest)) ∧
  ∀ (s : State) payload, s.tx.state = .delay → s.tx.payload = some payload →
    (payload = [] → exec .txDelayDone s = .next { s with tx := { s.tx with state := .writeTrailer } }) ∧
    (payload ≠ [] → exec .txDelayDone s = .next { s with tx := { s.tx with state := .writeChunk } })

/-- R205: the trailer write, for every response. -/
def Obligations.TrailerWriteResult : Prop :=
  ∀ s : State, s.tx.state = .writeTrailer →
    (exec (.txTrlWrite (.count 2)) s = .next (finish .ok { s with
      tx := { s.tx with wire := s.tx.wire ++ [0xAD, 0xDE] }
      txPort := s.txPort ++ [.write [0xAD, 0xDE] (.count 2)] })) ∧
    (∀ n : U32, n.toNat < 2 → exec (.txTrlWrite (.count n)) s = .next (finish .trailerWriteError { s with
      tx := { s.tx with wire := s.tx.wire ++ [0xAD, 0xDE].take n.toNat }
      txPort := s.txPort ++ [.write [0xAD, 0xDE] (.count n)] })) ∧
    (∃ k ≤ 2, exec (.txTrlWrite .fail) s = .next (finish .trailerWriteError { s with
      tx := { s.tx with wire := s.tx.wire ++ [0xAD, 0xDE].take k }
      txPort := s.txPort ++ [.write [0xAD, 0xDE] .fail], draws := s.draws + 1 })) ∧
    (∀ n : U32, 2 < n.toNat → exec (.txTrlWrite (.count n)) s = .refused .countExceedsRequest)

/-! ## Chunked transmitter -/

/-- R181, R182: the next chunk is the longest run of unsent bytes no longer than `MAX_CHUNK_SIZE`; the chunk write, for
every response, short counts among them. -/
def Obligations.ChunkWriteResult : Prop :=
  ∀ (s : State) payload, s.tx.state = .writeChunk → s.tx.payload = some payload →
    s.tx.offset.toNat < payload.length →
    let size := min s.params.maxChunkSize.toNat (payload.length - s.tx.offset.toNat)
    let next := (payload.drop s.tx.offset.toNat).take size
    (∀ n : U32, 1 ≤ n.toNat → n.toNat ≤ size → exec (.txChunkWrite (.count n)) s = .next { s with
      tx := { s.tx with wire := s.tx.wire ++ next.take n.toNat, offset := s.tx.offset + n,
                        bytesSent := s.tx.bytesSent + n, state := .drain }
      txPort := s.txPort ++ [.write next (.count n)] }) ∧
    (exec (.txChunkWrite (.count 0)) s = .next (finish .payloadWriteError { s with
      txPort := s.txPort ++ [.write next (.count 0)] })) ∧
    (∃ k ≤ size, exec (.txChunkWrite .fail) s = .next (finish .payloadWriteError { s with
      tx := { s.tx with wire := s.tx.wire ++ next.take k }
      txPort := s.txPort ++ [.write next .fail], draws := s.draws + 1 })) ∧
    (∀ n : U32, size < n.toNat → exec (.txChunkWrite (.count n)) s = .refused .countExceedsRequest)

/-- R183: the drain, for both responses; it carries `DRAIN_TIMEOUT` and puts nothing on the wire. -/
def Obligations.DrainResult : Prop :=
  ∀ (s : State) payload, s.tx.state = .drain → s.tx.payload = some payload →
    (exec (.txDrain .timeout) s = .next (finish .payloadWriteError { s with
      txPort := s.txPort ++ [.drain s.params.drainTimeout .timeout] })) ∧
    (s.tx.offset.toNat = payload.length → exec (.txDrain .done) s = .next { s with
      tx := { s.tx with state := .writeTrailer }
      txPort := s.txPort ++ [.drain s.params.drainTimeout .done] }) ∧
    (s.tx.offset.toNat ≠ payload.length → exec (.txDrain .done) s = .next { s with
      tx := { s.tx with state := .writeChunk }
      txPort := s.txPort ++ [.drain s.params.drainTimeout .done] })

/-! ## Whole-machine rules of the TX agent -/

/-- R201: no operation but `RESET` moves the TX state except along the arrows of the sequence. -/
def Obligations.TxTransitions : Prop :=
  ∀ i (s t : State), exec i s = .next t → i ≠ .reset →
    t.tx.state = s.tx.state ∨
    (s.tx.state, i.opcode, t.tx.state) ∈
      ([(.idle, some .sendFrame, .checksum), (.checksum, some .txCksum, .writeHeader),
        (.writeHeader, some .txHdrWrite, .delay), (.writeHeader, some .txHdrWrite, .idle),
        (.delay, some .txDelayDone, .writeChunk), (.delay, some .txDelayDone, .writeTrailer),
        (.writeChunk, some .txChunkWrite, .drain), (.writeChunk, some .txChunkWrite, .idle),
        (.drain, some .txDrain, .writeChunk), (.drain, some .txDrain, .writeTrailer),
        (.drain, some .txDrain, .idle), (.writeTrailer, some .txTrlWrite, .idle)] : List (TxSt × Option Opcode × TxSt))

/-- R206, R300, R307: the counter and the result channel change together and only when an attempt ends: one result with
one code, the one its state allows, and the counter one higher modulo 2^16. No other operation but `RESET` touches
either. -/
def Obligations.OneResultPerAttempt : Prop :=
  ∀ i (s t : State), exec i s = .next t → i ≠ .reset →
    (t.tx.frameId = s.tx.frameId ∧ t.txEv = s.txEv ∧ (t.tx.state = .idle → s.tx.state = .idle)) ∨
    (t.tx.frameId.toNat = (s.tx.frameId.toNat + 1) % 65536 ∧ t.tx.state = .idle ∧
      ∃ code, t.txEv = s.txEv ++ [⟨code, s.tx.frameId, s.tx.bytesSent⟩] ∧
        ((code = .headerWriteError ∧ s.tx.state = .writeHeader) ∨
         (code = .payloadWriteError ∧ (s.tx.state = .writeChunk ∨ s.tx.state = .drain)) ∨
         (code = .trailerWriteError ∧ s.tx.state = .writeTrailer) ∨
         (code = .ok ∧ i = .txTrlWrite (.count 2) ∧ s.tx.state = .writeTrailer)))

/-- R48, R88, R93: the wire log only grows, by at most one request per operation, and by a prefix of that request's
bytes: exactly n of them for `Count n`. An operation that makes no write request logs none: the request log (log 6) is as it
was, or one drain request longer. -/
def Obligations.WireGrowsByOneRequest : Prop :=
  ∀ i (s t : State), exec i s = .next t → i ≠ .reset →
    (t.tx.wire = s.tx.wire ∧
      (t.txPort = s.txPort ∨ ∃ resp, t.txPort = s.txPort ++ [.drain s.params.drainTimeout resp])) ∨
    (∃ bytes resp k, t.txPort = s.txPort ++ [.write bytes resp] ∧ t.tx.wire = s.tx.wire ++ bytes.take k ∧
      k ≤ bytes.length ∧ ∀ n, resp = .count n → k = n.toNat)

/-- R210: one `SEND_FRAME` whose writes answer their full counts and whose drains answer `Done` appends exactly header,
payload and trailer to the wire in 2 + ceil(len(P) / MAX_CHUNK_SIZE) writes, and emits `Ok` with the payload's length. -/
def Obligations.GoodFrameWireImage : Prop :=
  ∀ (s : State) (width height pixelFormat : U16) (payload : List Byte), s.tx.state = .idle →
    payload.length < 2 ^ 32 →
    ∃ t, runOps (.sendFrame width height pixelFormat payload ::
        txRunOk s.params.maxChunkSize.toNat payload.length) s = .next t ∧
      t.tx.wire = s.tx.wire ++ (hdrEncode
        { width := width, height := height, dataLength := BitVec.ofNat 32 payload.length,
          pixelFormat := pixelFormat, frameId := s.tx.frameId, checksum := cksum payload }).toList ++
          payload ++ [0xAD, 0xDE] ∧
      t.txEv = s.txEv ++ [⟨.ok, s.tx.frameId, BitVec.ofNat 32 payload.length⟩] ∧
      t.tx.state = .idle ∧ t.tx.frameId = s.tx.frameId + 1 ∧ t.rx = s.rx ∧ t.rxEv = s.rxEv ∧
      (∃ log, t.txPort = s.txPort ++ log ∧ log.countP TxRequest.isWrite =
        2 + (payload.length + s.params.maxChunkSize.toNat - 1) / s.params.maxChunkSize.toNat)

/-- R186: when every chunk write answers a count of at least 1 and every drain `Done`, the bytes appended are the payload
bytes in order with none missing or repeated, short counts or not; and the trailer is reached exactly when all are sent. -/
def Obligations.ShortCountsLoseNothing : Prop :=
  ∀ (counts : List U32) (s t : State) payload, TxInv s.tx → s.tx.state = .writeChunk →
    s.tx.payload = some payload → (∀ n ∈ counts, n ≠ 0) →
    (counts.map BitVec.toNat).sum ≤ payload.length - s.tx.offset.toNat →
    runOps (counts.flatMap fun n => [.txChunkWrite (.count n), .txDrain .done]) s = .next t →
    t.tx.wire = s.tx.wire ++ (payload.drop s.tx.offset.toNat).take (counts.map BitVec.toNat).sum ∧
    t.tx.offset.toNat = s.tx.offset.toNat + (counts.map BitVec.toNat).sum ∧
    (t.tx.state = .writeTrailer ↔ s.tx.offset.toNat + (counts.map BitVec.toNat).sum = payload.length)

/-- R358: after `SEND_FRAME` of a payload P at most 4 + 2 * len(P) TX steps are taken, and until TX is `Idle` again some
TX step is enabled and completes. -/
def Obligations.FrameEndsInBoundedSteps : Prop :=
  (∀ (ops : List Instr) (s : State) payload, TxInv s.tx → s.tx.state = .checksum → s.tx.payload = some payload →
    TxRun ops s → ops.length ≤ 4 + 2 * payload.length) ∧
  (∀ s : State, TxInv s.tx → s.tx.state ≠ .idle →
    ∃ i t, i.isTxStep = true ∧ enabled i s = true ∧ exec i s = .next t)

/-! ## Frame receiver -/

/-- R232, R240: one byte taken while scanning, for every byte and every history. -/
def Obligations.ScanningTakesOneByte : Prop :=
  ∀ (s : State) (b p : Byte), s.rx.state = .scanning → s.rx.replay = [] →
    (s.rx.prevValid = false → exec (.rxByte b) s = .next { s with rx := { s.rx with
      input := s.rx.input ++ [b], prevValid := true, prev := some b } }) ∧
    (s.rx.prevValid = true → s.rx.prev = some p → ¬ (p = 0x55 ∧ b = 0xAA) →
      exec (.rxByte b) s = .next { s with rx := { s.rx with
        input := s.rx.input ++ [b], prevValid := true, prev := some b } }) ∧
    (s.rx.prevValid = true → s.rx.prev = some 0x55 → exec (.rxByte 0xAA) s = .next { s with rx := { s.rx with
      input := s.rx.input ++ [0xAA], prevValid := false, prev := none, win := [0x55, 0xAA],
      state := .headerPartial } })

/-- R233, R234, R235, R238, R240: one byte taken into the header window: gathered; or the window is complete and decodes; or
it fails, its bytes 1..19 are queued for replay and the failure is recorded with the window. -/
def Obligations.HeaderWindowStep : Prop :=
  ∀ (s : State) (b : Byte), s.rx.state = .headerPartial → s.rx.replay = [] →
    (s.rx.win.length ≠ 19 → exec (.rxByte b) s = .next { s with rx := { s.rx with
      input := s.rx.input ++ [b], win := s.rx.win ++ [b] } }) ∧
    (∀ (w : Vector Byte 20) h, s.rx.win ++ [b] = w.toList → hdrDecode s.params.maxPayloadLen w = .ok h →
      exec (.rxByte b) s = .next { s with rx := { s.rx with
        input := s.rx.input ++ [b], hdr := some h, payload := [], sum := 0, trl := [], win := [],
        state := if h.dataLength.toNat = 0 then .trailerPartial else .payloadPartial } }) ∧
    (∀ w : Vector Byte 20, s.rx.win ++ [b] = w.toList →
      hdrDecode s.params.maxPayloadLen w = .error .malformedHeader →
      exec (.rxByte b) s = .next { s with rx := { s.rx with
        input := s.rx.input ++ [b], win := w.toList, replay := w.toList.tail,
        err := some (.malformedHeader w), state := .invalid } }) ∧
    (∀ w : Vector Byte 20, s.rx.win ++ [b] = w.toList →
      hdrDecode s.params.maxPayloadLen w = .error .payloadTooLarge →
      exec (.rxByte b) s = .next { s with rx := { s.rx with
        input := s.rx.input ++ [b], win := w.toList, replay := w.toList.tail,
        err := some (.payloadTooLarge w (u32le w 6)), state := .invalid } })

/-- R236, R240: one payload byte taken: counted and added to the checksum, whatever its value; with the last one the
trailer begins. -/
def Obligations.PayloadByteStep : Prop :=
  ∀ (s : State) (b : Byte) h, s.rx.state = .payloadPartial → s.rx.replay = [] → s.rx.hdr = some h →
    (s.rx.payload.length + 1 ≠ h.dataLength.toNat → exec (.rxByte b) s = .next { s with rx := { s.rx with
      input := s.rx.input ++ [b], payload := s.rx.payload ++ [b],
      sum := BitVec.ofNat 32 (s.rx.sum.toNat + b.toNat) } }) ∧
    (s.rx.payload.length + 1 = h.dataLength.toNat → exec (.rxByte b) s = .next { s with rx := { s.rx with
      input := s.rx.input ++ [b], payload := s.rx.payload ++ [b],
      sum := BitVec.ofNat 32 (s.rx.sum.toNat + b.toNat), trl := [], state := .trailerPartial } })

/-- R237, R238, R240: the trailer bytes: the first is kept; the second decides between `Complete` and the recorded mismatch
with its checksum verdict. -/
def Obligations.TrailerByteStep : Prop :=
  ∀ (s : State) (b t0 : Byte) h, s.rx.state = .trailerPartial → s.rx.replay = [] → s.rx.hdr = some h →
    (s.rx.trl = [] → exec (.rxByte b) s = .next { s with rx := { s.rx with
      input := s.rx.input ++ [b], trl := [b] } }) ∧
    (s.rx.trl = [0xAD] → exec (.rxByte 0xDE) s = .next { s with rx := { s.rx with
      input := s.rx.input ++ [0xDE], trl := [0xAD, 0xDE], state := .complete } }) ∧
    (s.rx.trl = [t0] → ¬ (t0 = 0xAD ∧ b = 0xDE) → exec (.rxByte b) s = .next { s with rx := { s.rx with
      input := s.rx.input ++ [b], trl := [t0, b], state := .invalid,
      err := some (.checksumOrFramingMismatch h.frameId #v[t0, b] (decide (s.rx.sum = h.checksum))
        h.checksum s.rx.sum) } })

/-- R241: a replayed byte is processed as `RX_BYTE` would process it, but it comes from the head of the queue and the input
log is not extended. Replay is pending only in `Scanning` and `HeaderPartial` (R39). -/
def Obligations.ReplayTakesQueueHead : Prop :=
  ∀ (s : State) (b p : Byte) r, s.rx.replay = b :: r →
    (s.rx.state = .scanning → s.rx.prevValid = false → exec .rxReplay s = .next { s with rx := { s.rx with
      replay := r, prevValid := true, prev := some b } }) ∧
    (s.rx.state = .scanning → s.rx.prevValid = true → s.rx.prev = some p → ¬ (p = 0x55 ∧ b = 0xAA) →
      exec .rxReplay s = .next { s with rx := { s.rx with replay := r, prevValid := true, prev := some b } }) ∧
    (s.rx.state = .scanning → s.rx.prevValid = true → s.rx.prev = some 0x55 → b = 0xAA →
      exec .rxReplay s = .next { s with rx := { s.rx with
        replay := r, prevValid := false, prev := none, win := [0x55, 0xAA], state := .headerPartial } }) ∧
    (s.rx.state = .headerPartial → s.rx.win.length ≠ 19 → exec .rxReplay s = .next { s with rx := { s.rx with
      replay := r, win := s.rx.win ++ [b] } })

/-- R242, R243, R239, R246: settling `Complete`: with matching sums the frame is delivered whole, its identifier recorded
and RX scans again; otherwise `ChecksumMismatch` is recorded and nothing is emitted. -/
def Obligations.SettleCompleteResult : Prop :=
  ∀ (s : State) h, s.rx.state = .complete → s.rx.hdr = some h →
    (s.rx.sum = h.checksum → exec .rxSettle s = .next { s with
      rxEv := s.rxEv ++ [.frameOk h.frameId h.width h.height h.pixelFormat h.checksum s.rx.payload]
      rx := { s.rx with
        state := .scanning, win := [], payload := [], trl := [], sum := 0, hdr := none, err := none,
        prevValid := false, prev := none, lastId := h.frameId, lastIdValid := true } }) ∧
    (s.rx.sum ≠ h.checksum → exec .rxSettle s = .next { s with rx := { s.rx with
      err := some (.checksumMismatch h.frameId h.dataLength h.checksum s.rx.sum), state := .invalid } })

/-- R242, R244, R239, R313: settling `Invalid`: the recorded failure is emitted, the frame discarded, and RX scans again;
the replay queue and the last identifier stay. -/
def Obligations.SettleInvalidResult : Prop :=
  ∀ (s : State) e, s.rx.state = .invalid → s.rx.err = some e →
    exec .rxSettle s = .next { s with
      rxEv := s.rxEv ++ [.frameError e]
      rx := { s.rx with
        state := .scanning, win := [], payload := [], trl := [], sum := 0, hdr := none, err := none,
        prevValid := false, prev := none } }

/-- R245: `RX_TIMEOUT`, code 13, abandons a partial frame with the bytes gathered and the identifier where the header had
decoded; elsewhere, and while replay is pending, it changes nothing. That bytes after the code belong to the next record
is log 26, and that `received` is a length taken as a u32 where it is not bounded is log 23 (both DEDUCED). -/
def Obligations.TimeoutResult : Prop :=
  (∀ rest, decode (0x13 :: rest) = .ok (.rxTimeout, rest)) ∧
  ∀ (s : State) h,
    (s.rx.state = .headerPartial → s.rx.replay = [] → exec .rxTimeout s = .next { s with rx := { s.rx with
      err := some (.rxTimeout .headerPartial (BitVec.ofNat 32 s.rx.win.length) none), state := .invalid } }) ∧
    (s.rx.state = .payloadPartial → s.rx.replay = [] → s.rx.hdr = some h →
      exec .rxTimeout s = .next { s with rx := { s.rx with
        err := some (.rxTimeout .payloadPartial (BitVec.ofNat 32 s.rx.payload.length) (some h.frameId)),
        state := .invalid } }) ∧
    (s.rx.state = .trailerPartial → s.rx.replay = [] → s.rx.hdr = some h →
      exec .rxTimeout s = .next { s with rx := { s.rx with
        err := some (.rxTimeout .trailerPartial (BitVec.ofNat 32 s.rx.trl.length) (some h.frameId)),
        state := .invalid } }) ∧
    (s.rx.state = .scanning ∨ s.rx.state = .complete ∨ s.rx.state = .invalid ∨ s.rx.replay ≠ [] →
      exec .rxTimeout s = .next s)

/-- R87, R249, log 7: a block of bytes on `rx_in` has the effect of its bytes taken one at a time. -/
def Obligations.BlockIsItsBytes : Prop :=
  ∀ i (s : State) bytes, inputBytes i = some bytes → s.rxIn = [] →
    exec i s = runOps (bytes.map .rxByte) s

/-- R110, R113, R115, R232-R237, log 7: what each wire format does to a receiver that meets its invariants and expects it:
a start marker opens a window, a header within the maximum opens a payload or, with no payload, a trailer, and a trailer
completes the frame. -/
def Obligations.WireFormatsAdvanceReceiver : Prop :=
  ∀ (s : State) (h : Header), RxInv s.params s.rx → s.rx.replay = [] →
    (s.rx.state = .scanning → exec .wireStart s = .next { s with rx := { s.rx with
      input := s.rx.input ++ [0x55, 0xAA], prevValid := false, prev := none, win := [0x55, 0xAA],
      state := .headerPartial } }) ∧
    (s.rx.state = .scanning → h.dataLength ≤ s.params.maxPayloadLen →
      exec (.wireHeader h) s = .next { s with rx := { s.rx with
        input := s.rx.input ++ (hdrEncode h).toList, prevValid := false, prev := none, win := [], hdr := some h,
        payload := [], sum := 0, trl := [],
        state := if h.dataLength.toNat = 0 then .trailerPartial else .payloadPartial } }) ∧
    (s.rx.state = .trailerPartial → s.rx.trl = [] → exec .wireTrailer s = .next { s with rx := { s.rx with
      input := s.rx.input ++ [0xAD, 0xDE], trl := [0xAD, 0xDE], state := .complete } })

/-! ## Whole-machine rules of the RX agent -/

/-- R230, R255: no operation but `RESET`, a block of bytes being its bytes (log 7), moves the RX state except along the
table of transitions; so none leads from `Scanning` to `Invalid`. -/
def Obligations.RxTransitions : Prop :=
  ∀ i (s t : State), exec i s = .next t → i ≠ .reset → i.port = .record →
    t.rx.state = s.rx.state ∨
    ((i = .rxReplay ∨ ∃ b, i = .rxByte b) ∧ (s.rx.state, t.rx.state) ∈
      ([(.scanning, .headerPartial), (.headerPartial, .payloadPartial), (.headerPartial, .trailerPartial),
        (.headerPartial, .invalid), (.payloadPartial, .trailerPartial), (.trailerPartial, .complete),
        (.trailerPartial, .invalid)] : List (RxSt × RxSt))) ∨
    (i = .rxSettle ∧ (s.rx.state, t.rx.state) ∈
      ([(.complete, .scanning), (.complete, .invalid), (.invalid, .scanning)] : List (RxSt × RxSt))) ∨
    (i = .rxTimeout ∧ (s.rx.state, t.rx.state) ∈
      ([(.headerPartial, .invalid), (.payloadPartial, .invalid), (.trailerPartial, .invalid)] : List (RxSt × RxSt)))

/-- R246, R253, R308: an event is emitted only by a settle, one at a time: `FrameOk` from `Complete` with the sums equal,
`FrameError` from `Invalid` with what was recorded. The last identifier changes with a `FrameOk` alone. -/
def Obligations.OneEventPerSettle : Prop :=
  ∀ i (s t : State), exec i s = .next t → i ≠ .reset →
    (t.rxEv = s.rxEv ∧ t.rx.lastId = s.rx.lastId ∧ t.rx.lastIdValid = s.rx.lastIdValid) ∨
    (i = .rxSettle ∧ s.rx.state = .complete ∧ t.rx.state = .scanning ∧ ∃ h, s.rx.hdr = some h ∧
      s.rx.sum = h.checksum ∧ t.rx.lastId = h.frameId ∧ t.rx.lastIdValid = true ∧
      t.rxEv = s.rxEv ++ [.frameOk h.frameId h.width h.height h.pixelFormat h.checksum s.rx.payload]) ∨
    (i = .rxSettle ∧ s.rx.state = .invalid ∧ t.rx.state = .scanning ∧ t.rx.lastId = s.rx.lastId ∧
      t.rx.lastIdValid = s.rx.lastIdValid ∧
      ∃ e, s.rx.err = some e ∧ t.rxEv = s.rxEv ++ [.frameError e])

/-- R248: the wire image of a good frame, fed to a scanning receiver with any history, is delivered whole with one settle,
and RX scans again with every buffer as it was. `rx.prev` has no value then (R31), so nothing is said of it. -/
def Obligations.Loopback : Prop :=
  ∀ (s : State) (h : Header) (payload : List Byte), RxInv s.params s.rx → s.rx.state = .scanning →
    s.rx.replay = [] → h.dataLength.toNat = payload.length → h.dataLength ≤ s.params.maxPayloadLen →
    h.checksum = cksum payload →
    ∃ p, runOps ((wireImage h payload).map .rxByte ++ [.rxSettle]) s = .next { s with
      rx := { s.rx with
        input := s.rx.input ++ wireImage h payload, prevValid := false, prev := p, sum := 0,
        lastId := h.frameId, lastIdValid := true }
      rxEv := s.rxEv ++ [.frameOk h.frameId h.width h.height h.pixelFormat h.checksum payload] }

/-- R250: with exactly one payload byte changed the same frame gives one `ChecksumMismatch` and no `FrameOk`. -/
def Obligations.OneByteCorruptionIsReported : Prop :=
  ∀ (s : State) (h : Header) (before after : List Byte) (a b : Byte), RxInv s.params s.rx →
    s.rx.state = .scanning → s.rx.replay = [] → a ≠ b →
    h.dataLength.toNat = (before ++ a :: after).length → h.dataLength ≤ s.params.maxPayloadLen →
    h.checksum = cksum (before ++ a :: after) →
    ∃ t, runOps ((wireImage h (before ++ b :: after)).map .rxByte ++ [.rxSettle, .rxSettle]) s = .next t ∧
      t.rxEv = s.rxEv ++ [.frameError (.checksumMismatch h.frameId h.dataLength h.checksum
        (cksum (before ++ b :: after)))] ∧
      t.rx.state = .scanning ∧ t.rx.lastId = s.rx.lastId ∧ t.rx.lastIdValid = s.rx.lastIdValid

/-- R252: the timeout and one settle end every partial frame with one `FrameError` of `RxTimeout`. -/
def Obligations.TruncatedFrameIsReported : Prop :=
  ∀ s : State, RxInv s.params s.rx → s.rx.state.partialFrame = true → s.rx.replay = [] →
    ∃ t state received frameId, runOps [.rxTimeout, .rxSettle] s = .next t ∧
      t.rxEv = s.rxEv ++ [.frameError (.rxTimeout state received frameId)] ∧ state = s.rx.state ∧
      t.rx.state = .scanning ∧ t.rx.replay = [] ∧ t.rx.win = [] ∧ t.rx.payload = [] ∧ t.rx.trl = []

/-! ## Status and reset -/

/-- R41, R270: `TX_STATUS` returns TXSTAT, field by field, in every state, and changes no field of the block. -/
def Obligations.TxStatusWord : Prop :=
  ∀ s : State, ∃ v : U32, exec .txStatus s = .next { s with cmdOut := s.cmdOut ++ [.word v] } ∧
    v.toNat % 8 = (match s.tx.state with
      | .idle => 0 | .checksum => 1 | .writeHeader => 2 | .delay => 3 | .writeChunk => 4 | .drain => 5
      | .writeTrailer => 6) ∧
    v.toNat / 8 % 2 ^ 13 = 0 ∧ v.toNat / 2 ^ 16 = s.tx.frameId.toNat

/-- R41, R271: `RX_STATUS` returns RXSTAT, field by field, in every state, and changes no field of the block. -/
def Obligations.RxStatusWord : Prop :=
  ∀ s : State, ∃ v : U32, exec .rxStatus s = .next { s with cmdOut := s.cmdOut ++ [.word v] } ∧
    v.toNat % 8 = (match s.rx.state with
      | .scanning => 0 | .headerPartial => 1 | .payloadPartial => 2 | .trailerPartial => 3 | .complete => 4
      | .invalid => 5) ∧
    v.toNat / 8 % 2 = (if s.rx.lastIdValid then 1 else 0) ∧
    v.toNat / 16 % 2 ^ 12 = 0 ∧
    v.toNat / 2 ^ 16 = (if s.rx.lastIdValid then s.rx.lastId.toNat else 0)

/-- R340: `RESET` in every state; it emits nothing. What it leaves alone (held operations, waiting bytes, records to come,
the count of free values) and the two logs of the model's own it clears are the model's choice (logs 4, 5, 6). -/
def Obligations.ResetResult : Prop :=
  ∀ s : State, exec .reset s = .next { s with
    tx := { state := .idle, frameId := 0, width := none, height := none, pixelFormat := none, payload := none,
            sum := 0, hdr := none, offset := 0, bytesSent := 0, wire := [] }
    rx := { state := .scanning, prevValid := false, prev := none, win := [], hdr := none, payload := [], sum := 0,
            trl := [], replay := [], err := none, lastId := 0, lastIdValid := false, input := [] }
    txEv := [], rxEv := [], cmdOut := [], txPort := [] }

/-- R341, R342, R346: the value of every block field in the reset state, and that it is a clean entry which `RESET`
restores with the parameters as they were (R340). That no operation is held in the reset state, and that `RESET` does not
touch the hold, are the model's (logs 2 and 4, DESIGN CHOICE). -/
def Obligations.ResetStateValues : Prop :=
  State.reset.tx = { state := .idle, frameId := 0, width := none, height := none, pixelFormat := none, payload := none,
                     sum := 0, hdr := none, offset := 0, bytesSent := 0, wire := [] } ∧
  State.reset.rx = { state := .scanning, prevValid := false, prev := none, win := [], hdr := none, payload := [],
                     sum := 0, trl := [], replay := [], err := none, lastId := 0, lastIdValid := false,
                     input := [] } ∧
  State.reset.txEv = [] ∧ State.reset.rxEv = [] ∧ txStat State.reset.tx = 0 ∧ rxStat State.reset.rx = 0 ∧
  CleanEntry State.reset ∧
  (∀ s : State, s.held = [] → ∃ t, exec .reset s = .next t ∧ CleanEntry t ∧ t.params = s.params)

/-! ## Independence -/

/-- R30, R90, R168: no operation of one agent writes a field of the other, the status reads and combinational functions
write neither, and no operation writes the parameters (R9). -/
def Obligations.AgentsShareNothing : Prop :=
  ∀ i (s t : State), exec i s = .next t →
    (i.isTx = true → t.rx = s.rx ∧ t.rxEv = s.rxEv ∧ t.rxIn = s.rxIn ∧ t.cmdOut = s.cmdOut) ∧
    (i.isRx = true → t.tx = s.tx ∧ t.txEv = s.txEv ∧ t.txPort = s.txPort ∧ t.draws = s.draws ∧
      t.cmdOut = s.cmdOut) ∧
    (i.isRead = true → t.tx = s.tx ∧ t.rx = s.rx ∧ t.txEv = s.txEv ∧ t.rxEv = s.rxEv) ∧
    t.params = s.params

/-- R30, R310: what an operation of one agent does to that agent does not depend on the other agent's state or channel. -/
def Obligations.AgentsDoNotObserveEachOther : Prop :=
  (∀ i (s s' t : State), i.isTx = true → s.tx = s'.tx → s.params = s'.params → s.draws = s'.draws →
    exec i s = .next t →
    ∃ t' results, exec i s' = .next t' ∧ t'.tx = t.tx ∧ t'.draws = t.draws ∧
      t.txEv = s.txEv ++ results ∧ t'.txEv = s'.txEv ++ results) ∧
  (∀ i (s s' t : State), i.isRx = true → s.rx = s'.rx → s.params = s'.params →
    exec i s = .next t →
    ∃ t' events, exec i s' = .next t' ∧ t'.rx = t.rx ∧
      t.rxEv = s.rxEv ++ events ∧ t'.rxEv = s'.rxEv ++ events)

/-- R30, I12: a TX operation and an RX operation that are both enabled and complete give the same state in either order. -/
def Obligations.InterleavingDoesNotMatter : Prop :=
  ∀ i j (s a b : State), i.isTx = true → j.isRx = true → enabled i s = true → enabled j s = true →
    exec i s = .next a → exec j s = .next b →
    ∃ t, runOps [i, j] s = .next t ∧ runOps [j, i] s = .next t

/-! ## Invariants -/

/-- R34, R35: every step keeps the invariants of the TX state, from every state that meets them. -/
def Obligations.TxInvariantKept : Prop :=
  ∀ s t : State, TxInv s.tx → step s = .next t → TxInv t.tx

/-- R37, R39 (its bounds sharpened, log 25; `rx.prev` absent while its flag is clear, log 12, both DEDUCED): every step keeps the invariants of the RX state, from every state that meets them. -/
def Obligations.RxInvariantKept : Prop :=
  ∀ s t : State, RxInv s.params s.rx → step s = .next t → RxInv t.params t.rx

/-- R35, R39: every operation, and so every step, keeps the accumulator clauses: `tx.sum` and `rx.sum` are the checksums of
the payloads. That a micro-operation of a record of its own waits while they are is log 13 (DEDUCED). -/
def Obligations.AccumulatorsHoldChecksums : Prop :=
  (∀ i (s t : State), SumInv s → exec i s = .next t → SumInv t) ∧
  (∀ s t : State, SumInv s → step s = .next t → SumInv t)

/-- The reset state meets every invariant (R35, R39). -/
def Obligations.InvariantsHoldAtReset : Prop :=
  BlockInv State.reset ∧ SumInv State.reset

/-- R19, R304: from a state that meets the invariants no operation and no step faults. -/
def Obligations.NoOperationFaults : Prop :=
  (∀ i (s : State), BlockInv s → ∀ f, exec i s ≠ .fault f) ∧ (∀ s : State, BlockInv s → ∀ f, step s ≠ .fault f)
end

