-- ==== Sys2Proof/Laws/Decode.lean ====
section
/-! SUPPORT. What each byte-order helper and each operand parser of Decode.lean does: the number its bytes stand for, and that it
reads back what the encoder wrote. -/

namespace Sys2Proof

/-! ## Byte order -/

theorem append_toNat {n : Nat} (hi : BitVec n) (lo : Byte) : (hi ++ lo).toNat = lo.toNat + 256 * hi.toNat := by
  rw [BitVec.toNat_append, ← Nat.shiftLeft_add_eq_or_of_lt lo.isLt, Nat.shiftLeft_eq]
  omega

theorem u16of_toNat (a b : Byte) : (u16of a b).toNat = a.toNat + 256 * b.toNat := append_toNat b a

theorem u32of_toNat (a b c d : Byte) :
    (u32of a b c d).toNat = a.toNat + 256 * b.toNat + 65536 * c.toNat + 16777216 * d.toNat := by
  have : (u32of a b c d).toNat = (((d ++ c) ++ b) ++ a).toNat := rfl
  rw [this, append_toNat, append_toNat, append_toNat]
  omega

theorem byteAt_toNat {n : Nat} (v : BitVec n) (k : Nat) : (v.extractLsb' k 8).toNat = v.toNat / 2 ^ k % 256 := by
  simp [BitVec.extractLsb'_toNat, Nat.shiftRight_eq_div_pow]

theorem u16of_bytes (v : U16) : u16of (v.extractLsb' 0 8) (v.extractLsb' 8 8) = v := by
  apply BitVec.eq_of_toNat_eq
  have := v.isLt
  rw [u16of_toNat, byteAt_toNat, byteAt_toNat]
  omega

theorem u32of_bytes (v : U32) :
    u32of (v.extractLsb' 0 8) (v.extractLsb' 8 8) (v.extractLsb' 16 8) (v.extractLsb' 24 8) = v := by
  apply BitVec.eq_of_toNat_eq
  have := v.isLt
  rw [u32of_toNat, byteAt_toNat, byteAt_toNat, byteAt_toNat, byteAt_toNat]
  omega

theorem le16_u16of (a b : Byte) : le16 (u16of a b) = [a, b] := by
  have := a.isLt
  have := b.isLt
  have h0 : (u16of a b).extractLsb' 0 8 = a := by
    apply BitVec.eq_of_toNat_eq; rw [byteAt_toNat, u16of_toNat]; omega
  have h1 : (u16of a b).extractLsb' 8 8 = b := by
    apply BitVec.eq_of_toNat_eq; rw [byteAt_toNat, u16of_toNat]; omega
  simp [le16, h0, h1]

theorem le32_u32of (a b c d : Byte) : le32 (u32of a b c d) = [a, b, c, d] := by
  have := a.isLt
  have := b.isLt
  have := c.isLt
  have := d.isLt
  have h0 : (u32of a b c d).extractLsb' 0 8 = a := by
    apply BitVec.eq_of_toNat_eq; rw [byteAt_toNat, u32of_toNat]; omega
  have h1 : (u32of a b c d).extractLsb' 8 8 = b := by
    apply BitVec.eq_of_toNat_eq; rw [byteAt_toNat, u32of_toNat]; omega
  have h2 : (u32of a b c d).extractLsb' 16 8 = c := by
    apply BitVec.eq_of_toNat_eq; rw [byteAt_toNat, u32of_toNat]; omega
  have h3 : (u32of a b c d).extractLsb' 24 8 = d := by
    apply BitVec.eq_of_toNat_eq; rw [byteAt_toNat, u32of_toNat]; omega
  simp [le32, h0, h1, h2, h3]

@[simp] theorem le16_length (v : U16) : (le16 v).length = 2 := rfl

@[simp] theorem le32_length (v : U32) : (le32 v).length = 4 := rfl

/-- The header bytes field after field (R110). -/
theorem hdrBytes_eq (h : Header) : hdrBytes h = le16 startMarker ++ le16 h.width ++ le16 h.height ++ le32 h.dataLength ++
    le16 h.pixelFormat ++ le16 h.frameId ++ le32 h.checksum ++ le16 endMarker := rfl

@[simp] theorem hdrBytes_length (h : Header) : (hdrBytes h).length = 20 := rfl

@[simp] theorem hdrEncode_toList (h : Header) : (hdrEncode h).toList = hdrBytes h := rfl

/-! ## Parsing one operand -/

@[simp] theorem Parse.andThen_ok {α β : Type} (a : α) (s : List Byte) (f : α → List Byte → Parse β) :
    Parse.andThen (.ok (a, s)) f = f a s := rfl

@[simp] theorem Parse.andThen_error {α β : Type} (e : DecodeError) (f : α → List Byte → Parse β) :
    Parse.andThen (.error e : Parse α) f = .error e := rfl

theorem Parse.andThen_eq_ok {α β : Type} {p : Parse α} {f : α → List Byte → Parse β} {r : β × List Byte}
    (h : p.andThen f = .ok r) : ∃ a s, p = .ok (a, s) ∧ f a s = .ok r := by
  match p, h with
  | .ok (a, s), h => exact ⟨a, s, rfl, h⟩

@[simp] theorem take8_cons (b : Byte) (r : List Byte) : take8 (b :: r) = .ok (b, r) := rfl

@[simp] theorem take16_le16 (v : U16) (r : List Byte) : take16 (le16 v ++ r) = .ok (v, r) := by
  simp [le16, take16, u16of_bytes]

@[simp] theorem take32_le32 (v : U32) (r : List Byte) : take32 (le32 v ++ r) = .ok (v, r) := by
  simp [le32, take32, u32of_bytes]

theorem take8_ok {s r : List Byte} {b : Byte} (h : take8 s = .ok (b, r)) : s = b :: r := by
  unfold take8 at h
  split at h
  · cases h; rfl
  · simp at h

theorem take16_ok {s r : List Byte} {v : U16} (h : take16 s = .ok (v, r)) : s = le16 v ++ r := by
  unfold take16 at h
  split at h
  · cases h; simp [le16_u16of]
  · simp at h

theorem take32_ok {s r : List Byte} {v : U32} (h : take32 s = .ok (v, r)) : s = le32 v ++ r := by
  unfold take32 at h
  split at h
  · cases h; simp [le32_u32of]
  · simp at h

theorem takeSized_encodeSized (p r : List Byte) (h : fitsU32 p) : takeSized (encodeSized p ++ r) = .ok (p, r) := by
  have : p.length % 4294967296 = p.length := Nat.mod_eq_of_lt h
  simp [takeSized, encodeSized, List.append_assoc, takeBytes, BitVec.toNat_ofNat, this]

theorem takeWriteResp_encode (w : WriteResp) (r : List Byte) :
    takeWriteResp (encodeWriteResp w ++ r) = .ok (w, r) := by
  cases w <;> simp [takeWriteResp, encodeWriteResp, Parse.use]

theorem takeDrainResp_encode (w : DrainResp) (r : List Byte) :
    takeDrainResp (encodeDrainResp w ++ r) = .ok (w, r) := by
  cases w <;> simp [takeDrainResp, encodeDrainResp]

theorem takeUnit_encode (u : CkUnit) (r : List Byte) : takeUnit (encodeUnit u ++ r) = .ok (u, r) := by
  cases u <;> simp [takeUnit, encodeUnit]

theorem takeHeader_encode (h : Header) (r : List Byte) : takeHeader (encodeHeader h ++ r) = .ok (h, r) := by
  simp [takeHeader, encodeHeader, List.append_assoc, Parse.use]

/-! ## The 20-byte window -/

@[simp] theorem exactly?_toList {n : Nat} (v : Vector Byte n) : exactly? n v.toList = some v := by
  simp [exactly?]
  rfl

theorem exactly?_some {n : Nat} {s : List Byte} {v : Vector Byte n} (h : exactly? n s = some v) : s = v.toList := by
  unfold exactly? at h
  split at h
  · cases h; simp
  · simp at h

theorem exactly?_none {n : Nat} {s : List Byte} (h : exactly? n s = none) : s.length ≠ n := by
  unfold exactly? at h
  split at h
  · simp at h
  · assumption

@[simp] theorem window?_toList (w : Window) : window? w.toList = some w := exactly?_toList w

theorem window?_some {s : List Byte} {w : Window} (h : window? s = some w) : s = w.toList := exactly?_some h

theorem window?_none {s : List Byte} (h : window? s = none) : s.length ≠ hdrLen := exactly?_none h

theorem takeWindow_encode (w : Window) (r : List Byte) : takeWindow (w.toList ++ r) = .ok (w, r) := by
  have h : (w.toList ++ r).take hdrLen = w.toList := by rw [List.take_append_of_le_length (by simp)]; simp
  have h2 : (w.toList ++ r).drop hdrLen = r := by rw [List.drop_append_of_le_length (by simp)]; simp
  unfold takeWindow
  rw [h, window?_toList, h2]

/-- A window written out byte by byte. -/
theorem window_eq (w : Window) : w.toList = [w[0], w[1], w[2], w[3], w[4], w[5], w[6], w[7], w[8], w[9],
    w[10], w[11], w[12], w[13], w[14], w[15], w[16], w[17], w[18], w[19]] := by
  obtain ⟨⟨l⟩, hl⟩ := w
  match l, hl with
  | [_, _, _, _, _, _, _, _, _, _, _, _, _, _, _, _, _, _, _, _], _ => rfl

/-- An encoded header field after field. -/
theorem hdrEncode_eq (h : Header) : hdrEncode h = ⟨(le16 startMarker ++ le16 h.width ++ le16 h.height ++ le32 h.dataLength ++
    le16 h.pixelFormat ++ le16 h.frameId ++ le32 h.checksum ++ le16 endMarker).toArray, rfl⟩ := by
  simp only [hdrEncode, hdrBytes_eq]

theorem hdrFields_hdrEncode (h : Header) : hdrFields (hdrEncode h) = h := by
  rw [hdrEncode_eq]
  cases h
  simp only [hdrFields, u16le, u32le, Header.mk.injEq]
  exact ⟨u16of_bytes _, u16of_bytes _, u32of_bytes _, u16of_bytes _, u16of_bytes _, u32of_bytes _⟩

theorem markersGood_hdrEncode (h : Header) : markersGood (hdrEncode h) = true := by
  rw [hdrEncode_eq, markersGood, beq_iff_eq.mpr, beq_iff_eq.mpr, Bool.and_self]
  · exact u16of_bytes endMarker
  · exact u16of_bytes startMarker

theorem markersGood_iff (w : Window) :
    markersGood w = true ↔ u16le w startOffset = startMarker ∧ u16le w endOffset = endMarker := by
  simp [markersGood]

/-- A header that decodes is the window's fields, its markers are good and its length is within the maximum. -/
theorem hdrDecode_ok {m : U32} {w : Window} {h : Header} (hd : hdrDecode m w = .ok h) :
    markersGood w = true ∧ h = hdrFields w ∧ h.dataLength ≤ m := by
  unfold hdrDecode at hd
  split at hd
  · simp at hd
  · rename_i hm
    split at hd
    · simp at hd
    · cases hd
      exact ⟨by simpa using hm, rfl, BitVec.not_lt.mp ‹_›⟩

end Sys2Proof
end

