-- ==== Sys2Proof/Laws/State.lean ====
section
/-! SUPPORT. What each named update of a record leaves in each field: one lemma per field per update, true by unfolding. -/

namespace Sys2Proof.Machine

/-! ### State.hold -/

@[simp] theorem State.hold_tx (i : Instr) (s : State) : (s.hold i).tx = s.tx := rfl
@[simp] theorem State.hold_rx (i : Instr) (s : State) : (s.hold i).rx = s.rx := rfl
@[simp] theorem State.hold_txEv (i : Instr) (s : State) : (s.hold i).txEv = s.txEv := rfl
@[simp] theorem State.hold_rxEv (i : Instr) (s : State) : (s.hold i).rxEv = s.rxEv := rfl
@[simp] theorem State.hold_params (i : Instr) (s : State) : (s.hold i).params = s.params := rfl
@[simp] theorem State.hold_held (i : Instr) (s : State) : (s.hold i).held = s.held ++ [i] := rfl
@[simp] theorem State.hold_rxIn (i : Instr) (s : State) : (s.hold i).rxIn = s.rxIn := rfl
@[simp] theorem State.hold_trace (i : Instr) (s : State) : (s.hold i).trace = s.trace := rfl
@[simp] theorem State.hold_cmdOut (i : Instr) (s : State) : (s.hold i).cmdOut = s.cmdOut := rfl
@[simp] theorem State.hold_txPort (i : Instr) (s : State) : (s.hold i).txPort = s.txPort := rfl
@[simp] theorem State.hold_draws (i : Instr) (s : State) : (s.hold i).draws = s.draws := rfl

/-! ### State.offer -/

@[simp] theorem State.offer_tx (bs : List Byte) (s : State) : (s.offer bs).tx = s.tx := rfl
@[simp] theorem State.offer_rx (bs : List Byte) (s : State) : (s.offer bs).rx = s.rx := rfl
@[simp] theorem State.offer_txEv (bs : List Byte) (s : State) : (s.offer bs).txEv = s.txEv := rfl
@[simp] theorem State.offer_rxEv (bs : List Byte) (s : State) : (s.offer bs).rxEv = s.rxEv := rfl
@[simp] theorem State.offer_params (bs : List Byte) (s : State) : (s.offer bs).params = s.params := rfl
@[simp] theorem State.offer_held (bs : List Byte) (s : State) : (s.offer bs).held = s.held := rfl
@[simp] theorem State.offer_rxIn (bs : List Byte) (s : State) : (s.offer bs).rxIn = s.rxIn ++ bs := rfl
@[simp] theorem State.offer_trace (bs : List Byte) (s : State) : (s.offer bs).trace = s.trace := rfl
@[simp] theorem State.offer_cmdOut (bs : List Byte) (s : State) : (s.offer bs).cmdOut = s.cmdOut := rfl
@[simp] theorem State.offer_txPort (bs : List Byte) (s : State) : (s.offer bs).txPort = s.txPort := rfl
@[simp] theorem State.offer_draws (bs : List Byte) (s : State) : (s.offer bs).draws = s.draws := rfl

/-! ### State.wrote -/

@[simp] theorem State.wrote_tx (bytes : List Byte) (resp : WriteResp) (n d : Nat) (s : State) :
    (s.wrote bytes resp n d).tx = { s.tx with wire := s.tx.wire ++ bytes.take n } := rfl
@[simp] theorem State.wrote_rx (bytes : List Byte) (resp : WriteResp) (n d : Nat) (s : State) :
    (s.wrote bytes resp n d).rx = s.rx := rfl
@[simp] theorem State.wrote_txEv (bytes : List Byte) (resp : WriteResp) (n d : Nat) (s : State) :
    (s.wrote bytes resp n d).txEv = s.txEv := rfl
@[simp] theorem State.wrote_rxEv (bytes : List Byte) (resp : WriteResp) (n d : Nat) (s : State) :
    (s.wrote bytes resp n d).rxEv = s.rxEv := rfl
@[simp] theorem State.wrote_params (bytes : List Byte) (resp : WriteResp) (n d : Nat) (s : State) :
    (s.wrote bytes resp n d).params = s.params := rfl
@[simp] theorem State.wrote_held (bytes : List Byte) (resp : WriteResp) (n d : Nat) (s : State) :
    (s.wrote bytes resp n d).held = s.held := rfl
@[simp] theorem State.wrote_rxIn (bytes : List Byte) (resp : WriteResp) (n d : Nat) (s : State) :
    (s.wrote bytes resp n d).rxIn = s.rxIn := rfl
@[simp] theorem State.wrote_trace (bytes : List Byte) (resp : WriteResp) (n d : Nat) (s : State) :
    (s.wrote bytes resp n d).trace = s.trace := rfl
@[simp] theorem State.wrote_cmdOut (bytes : List Byte) (resp : WriteResp) (n d : Nat) (s : State) :
    (s.wrote bytes resp n d).cmdOut = s.cmdOut := rfl
@[simp] theorem State.wrote_txPort (bytes : List Byte) (resp : WriteResp) (n d : Nat) (s : State) :
    (s.wrote bytes resp n d).txPort = s.txPort ++ [.write bytes resp] := rfl
@[simp] theorem State.wrote_draws (bytes : List Byte) (resp : WriteResp) (n d : Nat) (s : State) :
    (s.wrote bytes resp n d).draws = d := rfl

/-! ### State.emitTx -/

@[simp] theorem State.emitTx_tx (r : TxResult) (s : State) : (s.emitTx r).tx = s.tx := rfl
@[simp] theorem State.emitTx_rx (r : TxResult) (s : State) : (s.emitTx r).rx = s.rx := rfl
@[simp] theorem State.emitTx_txEv (r : TxResult) (s : State) : (s.emitTx r).txEv = s.txEv ++ [r] := rfl
@[simp] theorem State.emitTx_rxEv (r : TxResult) (s : State) : (s.emitTx r).rxEv = s.rxEv := rfl
@[simp] theorem State.emitTx_params (r : TxResult) (s : State) : (s.emitTx r).params = s.params := rfl
@[simp] theorem State.emitTx_held (r : TxResult) (s : State) : (s.emitTx r).held = s.held := rfl
@[simp] theorem State.emitTx_rxIn (r : TxResult) (s : State) : (s.emitTx r).rxIn = s.rxIn := rfl
@[simp] theorem State.emitTx_trace (r : TxResult) (s : State) : (s.emitTx r).trace = s.trace := rfl
@[simp] theorem State.emitTx_cmdOut (r : TxResult) (s : State) : (s.emitTx r).cmdOut = s.cmdOut := rfl
@[simp] theorem State.emitTx_txPort (r : TxResult) (s : State) : (s.emitTx r).txPort = s.txPort := rfl
@[simp] theorem State.emitTx_draws (r : TxResult) (s : State) : (s.emitTx r).draws = s.draws := rfl

/-! ### State.emitRx -/

@[simp] theorem State.emitRx_tx (e : RxEvent) (s : State) : (s.emitRx e).tx = s.tx := rfl
@[simp] theorem State.emitRx_rx (e : RxEvent) (s : State) : (s.emitRx e).rx = s.rx := rfl
@[simp] theorem State.emitRx_txEv (e : RxEvent) (s : State) : (s.emitRx e).txEv = s.txEv := rfl
@[simp] theorem State.emitRx_rxEv (e : RxEvent) (s : State) : (s.emitRx e).rxEv = s.rxEv ++ [e] := rfl
@[simp] theorem State.emitRx_params (e : RxEvent) (s : State) : (s.emitRx e).params = s.params := rfl
@[simp] theorem State.emitRx_held (e : RxEvent) (s : State) : (s.emitRx e).held = s.held := rfl
@[simp] theorem State.emitRx_rxIn (e : RxEvent) (s : State) : (s.emitRx e).rxIn = s.rxIn := rfl
@[simp] theorem State.emitRx_trace (e : RxEvent) (s : State) : (s.emitRx e).trace = s.trace := rfl
@[simp] theorem State.emitRx_cmdOut (e : RxEvent) (s : State) : (s.emitRx e).cmdOut = s.cmdOut := rfl
@[simp] theorem State.emitRx_txPort (e : RxEvent) (s : State) : (s.emitRx e).txPort = s.txPort := rfl
@[simp] theorem State.emitRx_draws (e : RxEvent) (s : State) : (s.emitRx e).draws = s.draws := rfl

/-! ### State.answer -/

@[simp] theorem State.answer_tx (r : CmdResult) (s : State) : (s.answer r).tx = s.tx := rfl
@[simp] theorem State.answer_rx (r : CmdResult) (s : State) : (s.answer r).rx = s.rx := rfl
@[simp] theorem State.answer_txEv (r : CmdResult) (s : State) : (s.answer r).txEv = s.txEv := rfl
@[simp] theorem State.answer_rxEv (r : CmdResult) (s : State) : (s.answer r).rxEv = s.rxEv := rfl
@[simp] theorem State.answer_params (r : CmdResult) (s : State) : (s.answer r).params = s.params := rfl
@[simp] theorem State.answer_held (r : CmdResult) (s : State) : (s.answer r).held = s.held := rfl
@[simp] theorem State.answer_rxIn (r : CmdResult) (s : State) : (s.answer r).rxIn = s.rxIn := rfl
@[simp] theorem State.answer_trace (r : CmdResult) (s : State) : (s.answer r).trace = s.trace := rfl
@[simp] theorem State.answer_cmdOut (r : CmdResult) (s : State) : (s.answer r).cmdOut = s.cmdOut ++ [r] := rfl
@[simp] theorem State.answer_txPort (r : CmdResult) (s : State) : (s.answer r).txPort = s.txPort := rfl
@[simp] theorem State.answer_draws (r : CmdResult) (s : State) : (s.answer r).draws = s.draws := rfl

/-! ### State.request -/

@[simp] theorem State.request_tx (r : TxRequest) (s : State) : (s.request r).tx = s.tx := rfl
@[simp] theorem State.request_rx (r : TxRequest) (s : State) : (s.request r).rx = s.rx := rfl
@[simp] theorem State.request_txEv (r : TxRequest) (s : State) : (s.request r).txEv = s.txEv := rfl
@[simp] theorem State.request_rxEv (r : TxRequest) (s : State) : (s.request r).rxEv = s.rxEv := rfl
@[simp] theorem State.request_params (r : TxRequest) (s : State) : (s.request r).params = s.params := rfl
@[simp] theorem State.request_held (r : TxRequest) (s : State) : (s.request r).held = s.held := rfl
@[simp] theorem State.request_rxIn (r : TxRequest) (s : State) : (s.request r).rxIn = s.rxIn := rfl
@[simp] theorem State.request_trace (r : TxRequest) (s : State) : (s.request r).trace = s.trace := rfl
@[simp] theorem State.request_cmdOut (r : TxRequest) (s : State) : (s.request r).cmdOut = s.cmdOut := rfl
@[simp] theorem State.request_txPort (r : TxRequest) (s : State) : (s.request r).txPort = s.txPort ++ [r] := rfl
@[simp] theorem State.request_draws (r : TxRequest) (s : State) : (s.request r).draws = s.draws := rfl

/-! ### State.setTx -/

@[simp] theorem State.setTx_tx (tx : TxState) (s : State) : (s.setTx tx).tx = tx := rfl
@[simp] theorem State.setTx_rx (tx : TxState) (s : State) : (s.setTx tx).rx = s.rx := rfl
@[simp] theorem State.setTx_txEv (tx : TxState) (s : State) : (s.setTx tx).txEv = s.txEv := rfl
@[simp] theorem State.setTx_rxEv (tx : TxState) (s : State) : (s.setTx tx).rxEv = s.rxEv := rfl
@[simp] theorem State.setTx_params (tx : TxState) (s : State) : (s.setTx tx).params = s.params := rfl
@[simp] theorem State.setTx_held (tx : TxState) (s : State) : (s.setTx tx).held = s.held := rfl
@[simp] theorem State.setTx_rxIn (tx : TxState) (s : State) : (s.setTx tx).rxIn = s.rxIn := rfl
@[simp] theorem State.setTx_trace (tx : TxState) (s : State) : (s.setTx tx).trace = s.trace := rfl
@[simp] theorem State.setTx_cmdOut (tx : TxState) (s : State) : (s.setTx tx).cmdOut = s.cmdOut := rfl
@[simp] theorem State.setTx_txPort (tx : TxState) (s : State) : (s.setTx tx).txPort = s.txPort := rfl
@[simp] theorem State.setTx_draws (tx : TxState) (s : State) : (s.setTx tx).draws = s.draws := rfl

/-! ### State.setRx -/

@[simp] theorem State.setRx_tx (rx : RxState) (s : State) : (s.setRx rx).tx = s.tx := rfl
@[simp] theorem State.setRx_rx (rx : RxState) (s : State) : (s.setRx rx).rx = rx := rfl
@[simp] theorem State.setRx_txEv (rx : RxState) (s : State) : (s.setRx rx).txEv = s.txEv := rfl
@[simp] theorem State.setRx_rxEv (rx : RxState) (s : State) : (s.setRx rx).rxEv = s.rxEv := rfl
@[simp] theorem State.setRx_params (rx : RxState) (s : State) : (s.setRx rx).params = s.params := rfl
@[simp] theorem State.setRx_held (rx : RxState) (s : State) : (s.setRx rx).held = s.held := rfl
@[simp] theorem State.setRx_rxIn (rx : RxState) (s : State) : (s.setRx rx).rxIn = s.rxIn := rfl
@[simp] theorem State.setRx_trace (rx : RxState) (s : State) : (s.setRx rx).trace = s.trace := rfl
@[simp] theorem State.setRx_cmdOut (rx : RxState) (s : State) : (s.setRx rx).cmdOut = s.cmdOut := rfl
@[simp] theorem State.setRx_txPort (rx : RxState) (s : State) : (s.setRx rx).txPort = s.txPort := rfl
@[simp] theorem State.setRx_draws (rx : RxState) (s : State) : (s.setRx rx).draws = s.draws := rfl

/-! ### State.afterReset -/

@[simp] theorem State.afterReset_tx (s : State) : s.afterReset.tx = TxState.reset := rfl
@[simp] theorem State.afterReset_rx (s : State) : s.afterReset.rx = RxState.reset := rfl
@[simp] theorem State.afterReset_txEv (s : State) : s.afterReset.txEv = [] := rfl
@[simp] theorem State.afterReset_rxEv (s : State) : s.afterReset.rxEv = [] := rfl
@[simp] theorem State.afterReset_params (s : State) : s.afterReset.params = s.params := rfl
@[simp] theorem State.afterReset_held (s : State) : s.afterReset.held = s.held := rfl
@[simp] theorem State.afterReset_rxIn (s : State) : s.afterReset.rxIn = s.rxIn := rfl
@[simp] theorem State.afterReset_trace (s : State) : s.afterReset.trace = s.trace := rfl
@[simp] theorem State.afterReset_cmdOut (s : State) : s.afterReset.cmdOut = [] := rfl
@[simp] theorem State.afterReset_txPort (s : State) : s.afterReset.txPort = [] := rfl
@[simp] theorem State.afterReset_draws (s : State) : s.afterReset.draws = s.draws := rfl

/-! ### finish -/

@[simp] theorem finish_tx (c : TxCode) (s : State) : (finish c s).tx = s.tx.finished := rfl
@[simp] theorem finish_rx (c : TxCode) (s : State) : (finish c s).rx = s.rx := rfl
@[simp] theorem finish_txEv (c : TxCode) (s : State) : (finish c s).txEv = s.txEv ++ [⟨c, s.tx.frameId, s.tx.bytesSent⟩] := rfl
@[simp] theorem finish_rxEv (c : TxCode) (s : State) : (finish c s).rxEv = s.rxEv := rfl
@[simp] theorem finish_params (c : TxCode) (s : State) : (finish c s).params = s.params := rfl
@[simp] theorem finish_held (c : TxCode) (s : State) : (finish c s).held = s.held := rfl
@[simp] theorem finish_rxIn (c : TxCode) (s : State) : (finish c s).rxIn = s.rxIn := rfl
@[simp] theorem finish_trace (c : TxCode) (s : State) : (finish c s).trace = s.trace := rfl
@[simp] theorem finish_cmdOut (c : TxCode) (s : State) : (finish c s).cmdOut = s.cmdOut := rfl
@[simp] theorem finish_txPort (c : TxCode) (s : State) : (finish c s).txPort = s.txPort := rfl
@[simp] theorem finish_draws (c : TxCode) (s : State) : (finish c s).draws = s.draws := rfl

/-! ### TxState.finished -/

@[simp] theorem TxState.finished_state (tx : TxState) : tx.finished.state = .idle := rfl
@[simp] theorem TxState.finished_frameId (tx : TxState) : tx.finished.frameId = tx.frameId + 1 := rfl
@[simp] theorem TxState.finished_width (tx : TxState) : tx.finished.width = none := rfl
@[simp] theorem TxState.finished_height (tx : TxState) : tx.finished.height = none := rfl
@[simp] theorem TxState.finished_pixelFormat (tx : TxState) : tx.finished.pixelFormat = none := rfl
@[simp] theorem TxState.finished_payload (tx : TxState) : tx.finished.payload = none := rfl
@[simp] theorem TxState.finished_sum (tx : TxState) : tx.finished.sum = 0 := rfl
@[simp] theorem TxState.finished_hdr (tx : TxState) : tx.finished.hdr = none := rfl
@[simp] theorem TxState.finished_offset (tx : TxState) : tx.finished.offset = 0 := rfl
@[simp] theorem TxState.finished_bytesSent (tx : TxState) : tx.finished.bytesSent = 0 := rfl
@[simp] theorem TxState.finished_wire (tx : TxState) : tx.finished.wire = tx.wire := rfl

/-! ### RxState.remember -/

@[simp] theorem RxState.remember_state (b : Byte) (rx : RxState) : (rx.remember b).state = rx.state := rfl
@[simp] theorem RxState.remember_prevValid (b : Byte) (rx : RxState) : (rx.remember b).prevValid = true := rfl
@[simp] theorem RxState.remember_prev (b : Byte) (rx : RxState) : (rx.remember b).prev = some b := rfl
@[simp] theorem RxState.remember_win (b : Byte) (rx : RxState) : (rx.remember b).win = rx.win := rfl
@[simp] theorem RxState.remember_hdr (b : Byte) (rx : RxState) : (rx.remember b).hdr = rx.hdr := rfl
@[simp] theorem RxState.remember_payload (b : Byte) (rx : RxState) : (rx.remember b).payload = rx.payload := rfl
@[simp] theorem RxState.remember_sum (b : Byte) (rx : RxState) : (rx.remember b).sum = rx.sum := rfl
@[simp] theorem RxState.remember_trl (b : Byte) (rx : RxState) : (rx.remember b).trl = rx.trl := rfl
@[simp] theorem RxState.remember_replay (b : Byte) (rx : RxState) : (rx.remember b).replay = rx.replay := rfl
@[simp] theorem RxState.remember_err (b : Byte) (rx : RxState) : (rx.remember b).err = rx.err := rfl
@[simp] theorem RxState.remember_lastId (b : Byte) (rx : RxState) : (rx.remember b).lastId = rx.lastId := rfl
@[simp] theorem RxState.remember_lastIdValid (b : Byte) (rx : RxState) : (rx.remember b).lastIdValid = rx.lastIdValid := rfl
@[simp] theorem RxState.remember_input (b : Byte) (rx : RxState) : (rx.remember b).input = rx.input := rfl

/-! ### RxState.forget -/

@[simp] theorem RxState.forget_state (rx : RxState) : rx.forget.state = rx.state := rfl
@[simp] theorem RxState.forget_prevValid (rx : RxState) : rx.forget.prevValid = false := rfl
@[simp] theorem RxState.forget_prev (rx : RxState) : rx.forget.prev = none := rfl
@[simp] theorem RxState.forget_win (rx : RxState) : rx.forget.win = rx.win := rfl
@[simp] theorem RxState.forget_hdr (rx : RxState) : rx.forget.hdr = rx.hdr := rfl
@[simp] theorem RxState.forget_payload (rx : RxState) : rx.forget.payload = rx.payload := rfl
@[simp] theorem RxState.forget_sum (rx : RxState) : rx.forget.sum = rx.sum := rfl
@[simp] theorem RxState.forget_trl (rx : RxState) : rx.forget.trl = rx.trl := rfl
@[simp] theorem RxState.forget_replay (rx : RxState) : rx.forget.replay = rx.replay := rfl
@[simp] theorem RxState.forget_err (rx : RxState) : rx.forget.err = rx.err := rfl
@[simp] theorem RxState.forget_lastId (rx : RxState) : rx.forget.lastId = rx.lastId := rfl
@[simp] theorem RxState.forget_lastIdValid (rx : RxState) : rx.forget.lastIdValid = rx.lastIdValid := rfl
@[simp] theorem RxState.forget_input (rx : RxState) : rx.forget.input = rx.input := rfl

/-! ### RxState.recordId -/

@[simp] theorem RxState.recordId_state (i : U16) (rx : RxState) : (rx.recordId i).state = rx.state := rfl
@[simp] theorem RxState.recordId_prevValid (i : U16) (rx : RxState) : (rx.recordId i).prevValid = rx.prevValid := rfl
@[simp] theorem RxState.recordId_prev (i : U16) (rx : RxState) : (rx.recordId i).prev = rx.prev := rfl
@[simp] theorem RxState.recordId_win (i : U16) (rx : RxState) : (rx.recordId i).win = rx.win := rfl
@[simp] theorem RxState.recordId_hdr (i : U16) (rx : RxState) : (rx.recordId i).hdr = rx.hdr := rfl
@[simp] theorem RxState.recordId_payload (i : U16) (rx : RxState) : (rx.recordId i).payload = rx.payload := rfl
@[simp] theorem RxState.recordId_sum (i : U16) (rx : RxState) : (rx.recordId i).sum = rx.sum := rfl
@[simp] theorem RxState.recordId_trl (i : U16) (rx : RxState) : (rx.recordId i).trl = rx.trl := rfl
@[simp] theorem RxState.recordId_replay (i : U16) (rx : RxState) : (rx.recordId i).replay = rx.replay := rfl
@[simp] theorem RxState.recordId_err (i : U16) (rx : RxState) : (rx.recordId i).err = rx.err := rfl
@[simp] theorem RxState.recordId_lastId (i : U16) (rx : RxState) : (rx.recordId i).lastId = i := rfl
@[simp] theorem RxState.recordId_lastIdValid (i : U16) (rx : RxState) : (rx.recordId i).lastIdValid = true := rfl
@[simp] theorem RxState.recordId_input (i : U16) (rx : RxState) : (rx.recordId i).input = rx.input := rfl

/-! ### failRx -/

@[simp] theorem failRx_state (e : RxError) (rx : RxState) : (failRx e rx).state = .invalid := rfl
@[simp] theorem failRx_prevValid (e : RxError) (rx : RxState) : (failRx e rx).prevValid = rx.prevValid := rfl
@[simp] theorem failRx_prev (e : RxError) (rx : RxState) : (failRx e rx).prev = rx.prev := rfl
@[simp] theorem failRx_win (e : RxError) (rx : RxState) : (failRx e rx).win = rx.win := rfl
@[simp] theorem failRx_hdr (e : RxError) (rx : RxState) : (failRx e rx).hdr = rx.hdr := rfl
@[simp] theorem failRx_payload (e : RxError) (rx : RxState) : (failRx e rx).payload = rx.payload := rfl
@[simp] theorem failRx_sum (e : RxError) (rx : RxState) : (failRx e rx).sum = rx.sum := rfl
@[simp] theorem failRx_trl (e : RxError) (rx : RxState) : (failRx e rx).trl = rx.trl := rfl
@[simp] theorem failRx_replay (e : RxError) (rx : RxState) : (failRx e rx).replay = rx.replay := rfl
@[simp] theorem failRx_err (e : RxError) (rx : RxState) : (failRx e rx).err = some e := rfl
@[simp] theorem failRx_lastId (e : RxError) (rx : RxState) : (failRx e rx).lastId = rx.lastId := rfl
@[simp] theorem failRx_lastIdValid (e : RxError) (rx : RxState) : (failRx e rx).lastIdValid = rx.lastIdValid := rfl
@[simp] theorem failRx_input (e : RxError) (rx : RxState) : (failRx e rx).input = rx.input := rfl

/-! ### clearFrame -/

@[simp] theorem clearFrame_state (rx : RxState) : (clearFrame rx).state = rx.state := rfl
@[simp] theorem clearFrame_prevValid (rx : RxState) : (clearFrame rx).prevValid = false := rfl
@[simp] theorem clearFrame_prev (rx : RxState) : (clearFrame rx).prev = none := rfl
@[simp] theorem clearFrame_win (rx : RxState) : (clearFrame rx).win = [] := rfl
@[simp] theorem clearFrame_hdr (rx : RxState) : (clearFrame rx).hdr = none := rfl
@[simp] theorem clearFrame_payload (rx : RxState) : (clearFrame rx).payload = [] := rfl
@[simp] theorem clearFrame_sum (rx : RxState) : (clearFrame rx).sum = 0 := rfl
@[simp] theorem clearFrame_trl (rx : RxState) : (clearFrame rx).trl = [] := rfl
@[simp] theorem clearFrame_replay (rx : RxState) : (clearFrame rx).replay = rx.replay := rfl
@[simp] theorem clearFrame_err (rx : RxState) : (clearFrame rx).err = none := rfl
@[simp] theorem clearFrame_lastId (rx : RxState) : (clearFrame rx).lastId = rx.lastId := rfl
@[simp] theorem clearFrame_lastIdValid (rx : RxState) : (clearFrame rx).lastIdValid = rx.lastIdValid := rfl
@[simp] theorem clearFrame_input (rx : RxState) : (clearFrame rx).input = rx.input := rfl

/-! ### openWindow -/

@[simp] theorem openWindow_state (rx : RxState) : (openWindow rx).state = .headerPartial := rfl
@[simp] theorem openWindow_prevValid (rx : RxState) : (openWindow rx).prevValid = false := rfl
@[simp] theorem openWindow_prev (rx : RxState) : (openWindow rx).prev = none := rfl
@[simp] theorem openWindow_win (rx : RxState) : (openWindow rx).win = le16 startMarker := rfl
@[simp] theorem openWindow_hdr (rx : RxState) : (openWindow rx).hdr = rx.hdr := rfl
@[simp] theorem openWindow_payload (rx : RxState) : (openWindow rx).payload = rx.payload := rfl
@[simp] theorem openWindow_sum (rx : RxState) : (openWindow rx).sum = rx.sum := rfl
@[simp] theorem openWindow_trl (rx : RxState) : (openWindow rx).trl = rx.trl := rfl
@[simp] theorem openWindow_replay (rx : RxState) : (openWindow rx).replay = rx.replay := rfl
@[simp] theorem openWindow_err (rx : RxState) : (openWindow rx).err = rx.err := rfl
@[simp] theorem openWindow_lastId (rx : RxState) : (openWindow rx).lastId = rx.lastId := rfl
@[simp] theorem openWindow_lastIdValid (rx : RxState) : (openWindow rx).lastIdValid = rx.lastIdValid := rfl
@[simp] theorem openWindow_input (rx : RxState) : (openWindow rx).input = rx.input := rfl

end Sys2Proof.Machine
end

