-- ==== Sys2Proof/Laws/Ops.lean ====
section
/-! SUPPORT. What each shared operation can do, said once: the guard, the reading of absent fields, the transport requests, the
receiver's byte function, a block of bytes, and the choice of the operation that moves next. -/

namespace Sys2Proof.Machine

/-! ## The guard -/

theorem guarded_of_enabled {i : Instr} {s : State} {k : Result} (h : enabled i s = true) : guarded i s k = k := by
  simp [guarded, h]

theorem guarded_of_disabled {i : Instr} {s : State} {k : Result} (h : enabled i s = false) :
    guarded i s k = .next (wait i s) := by
  simp [guarded, h]

theorem guarded_next {i : Instr} {s t : State} {k : Result} (h : guarded i s k = .next t) :
    (enabled i s = true ∧ k = .next t) ∨ (enabled i s = false ∧ t = wait i s) := by
  unfold guarded at h
  split at h
  · exact .inl ⟨‹_›, h⟩
  · rename_i he
    exact .inr ⟨by simpa using he, by simpa using h.symm⟩

theorem guarded_fault {i : Instr} {s : State} {k : Result} {f : Fault} (h : guarded i s k = .fault f) :
    enabled i s = true ∧ k = .fault f := by
  unfold guarded at h
  split at h
  · exact ⟨‹_›, h⟩
  · simp at h

theorem guarded_refused {i : Instr} {s : State} {k : Result} {r : Refusal} (h : guarded i s k = .refused r) :
    enabled i s = true ∧ k = .refused r := by
  unfold guarded at h
  split at h
  · exact ⟨‹_›, h⟩
  · simp at h

/-! ## Waiting leaves the block alone -/

@[simp] theorem wait_tx (i : Instr) (s : State) : (wait i s).tx = s.tx := by unfold wait; split <;> rfl
@[simp] theorem wait_rx (i : Instr) (s : State) : (wait i s).rx = s.rx := by unfold wait; split <;> rfl
@[simp] theorem wait_txEv (i : Instr) (s : State) : (wait i s).txEv = s.txEv := by unfold wait; split <;> rfl
@[simp] theorem wait_rxEv (i : Instr) (s : State) : (wait i s).rxEv = s.rxEv := by unfold wait; split <;> rfl
@[simp] theorem wait_params (i : Instr) (s : State) : (wait i s).params = s.params := by unfold wait; split <;> rfl
@[simp] theorem wait_trace (i : Instr) (s : State) : (wait i s).trace = s.trace := by unfold wait; split <;> rfl
@[simp] theorem wait_cmdOut (i : Instr) (s : State) : (wait i s).cmdOut = s.cmdOut := by unfold wait; split <;> rfl
@[simp] theorem wait_txPort (i : Instr) (s : State) : (wait i s).txPort = s.txPort := by unfold wait; split <;> rfl
@[simp] theorem wait_draws (i : Instr) (s : State) : (wait i s).draws = s.draws := by unfold wait; split <;> rfl

/-! ## Absent fields -/

@[simp] theorem readField_some {α : Type} (f : Field) (a : α) (k : α → Result) : readField f (some a) k = k a := rfl

@[simp] theorem readField_none {α : Type} (f : Field) (k : α → Result) :
    readField f none k = .fault (.absentField f) := rfl

@[simp] theorem need_some {α β : Type} (f : Field) (a : α) (k : α → Except Fault β) : need f (some a) k = k a := rfl

@[simp] theorem need_none {α β : Type} (f : Field) (k : α → Except Fault β) :
    need f none k = .error (.absentField f) := rfl

theorem readField_next {α : Type} {f : Field} {v : Option α} {k : α → Result} {t : State}
    (h : readField f v k = .next t) : ∃ a, v = some a ∧ k a = .next t := by
  cases v with
  | none => simp at h
  | some a => exact ⟨a, rfl, h⟩

theorem readField_refused {α : Type} {f : Field} {v : Option α} {k : α → Result} {r : Refusal}
    (h : readField f v k = .refused r) : ∃ a, v = some a ∧ k a = .refused r := by
  cases v with
  | none => simp at h
  | some a => exact ⟨a, rfl, h⟩

theorem need_ok {α β : Type} {f : Field} {v : Option α} {k : α → Except Fault β} {b : β}
    (h : need f v k = .ok b) : ∃ a, v = some a ∧ k a = .ok b := by
  cases v with
  | none => simp at h
  | some a => exact ⟨a, rfl, h⟩

theorem liftRx_next {s t : State} {r : Except Fault RxState} (h : liftRx s r = .next t) :
    ∃ rx, r = .ok rx ∧ t = s.setRx rx := by
  cases r with
  | error f => simp [liftRx] at h
  | ok rx => exact ⟨rx, rfl, by simpa [liftRx] using h.symm⟩

/-! ## Checksum -/

@[simp] theorem cksum_nil : cksum [] = 0 := rfl

theorem cksum_snoc (s : List Byte) (b : Byte) : cksum (s ++ [b]) = ckAddByte (cksum s) b := by
  simp [cksum]

/-! ## Transport requests -/

theorem failedPrefix_le (d len : Nat) : failedPrefix d len ≤ len :=
  Nat.lt_succ_iff.mp (Nat.mod_lt _ (Nat.succ_pos len))

/-- What `k` is run on after a write (R88): a prefix of the request on the wire, exactly n bytes of it for a count n. -/
theorem wireWrite_next {bytes : List Byte} {resp : WriteResp} {s t : State} {k : State → Result}
    (h : wireWrite bytes resp s k = .next t) :
    ∃ n d, n ≤ bytes.length ∧ (∀ c, resp = .count c → n = c.toNat ∧ d = s.draws) ∧
      k (s.wrote bytes resp n d) = .next t := by
  cases resp with
  | count c =>
    simp only [wireWrite] at h
    split at h
    · exact ⟨c.toNat, s.draws, ‹_›, by simp, h⟩
    · simp at h
  | fail => exact ⟨_, _, failedPrefix_le s.draws bytes.length, by simp, h⟩

/-- Where a write is refused: a count above the request's length, if nothing that follows refuses. -/
theorem wireWrite_refused {bytes : List Byte} {resp : WriteResp} {s : State} {k : State → Result} {r : Refusal}
    (hk : ∀ s, k s ≠ .refused r) (h : wireWrite bytes resp s k = .refused r) :
    r = .countExceedsRequest ∧ ∃ c, resp = .count c ∧ bytes.length < c.toNat := by
  unfold wireWrite at h
  split at h
  · split at h
    · exact absurd h (hk _)
    · exact ⟨by simpa using h.symm, _, rfl, by omega⟩
  · exact absurd h (hk _)

/-! ## The receiver's byte function -/

/-- What `rx_consume` never touches. -/
theorem rxConsume_frame {p : Params} {b : Byte} {rx rx' : RxState} (h : rxConsume p b rx = .ok rx') :
    rx'.lastId = rx.lastId ∧ rx'.lastIdValid = rx.lastIdValid ∧ rx'.input = rx.input := by
  unfold rxConsume at h
  split at h
  · unfold scanStep at h
    split at h
    · obtain ⟨q, -, h⟩ := need_ok h
      split at h <;> (cases h; simp)
    · cases h; simp
  · cases h
    unfold headerStep
    split
    · simp
    · split <;> simp [headerOk, headerBad]
  · unfold payloadStep at h
    obtain ⟨q, -, h⟩ := need_ok h
    split at h <;> (cases h; simp)
  · unfold trailerStep at h
    split at h
    · cases h; simp
    · split at h
      · cases h; simp
      · obtain ⟨q, -, h⟩ := need_ok h
        cases h; simp
  · cases h; simp
  · cases h; simp

theorem takeByte_next {b : Byte} {s t : State} (h : takeByte b s = .next t) :
    ∃ rx, rxConsume s.params b { s.rx with input := s.rx.input ++ [b] } = .ok rx ∧ t = s.setRx rx :=
  liftRx_next h

/-- A block of bytes takes a receiver property along when one byte does, and changes only the receiver and the waiting
bytes. -/
theorem feed_next {P : Params → RxState → Prop}
    (hP : ∀ p b rx rx', P p rx → rxReady rx = true →
      rxConsume p b { rx with input := rx.input ++ [b] } = .ok rx' → P p rx') :
    ∀ {bs : List Byte} {s t : State}, P s.params s.rx → feed bs s = .next t →
      P s.params t.rx ∧ ∃ rx r, t = { s with rx := rx, rxIn := r }
  | [], s, t, h, hf => by
    cases hf
    exact ⟨h, s.rx, s.rxIn, rfl⟩
  | b :: r, s, t, h, hf => by
    simp only [feed] at hf
    split at hf
    · rename_i hr
      split at hf
      · rename_i s' hs'
        obtain ⟨rx, hrx, rfl⟩ := takeByte_next hs'
        obtain ⟨h1, rx', r', rfl⟩ := feed_next hP (s := s.setRx rx) (hP _ _ _ _ h hr hrx) hf
        exact ⟨h1, rx', r', rfl⟩
      · simp at hf
      · simp at hf
    · cases hf
      exact ⟨h, s.rx, _, rfl⟩

/-! ## The choice of the operation that moves next -/

theorem firstEnabled_of_disabled {s : State} : ∀ {l : List Instr}, (∀ h ∈ l, enabled h s = false) →
    firstEnabled s l = none
  | [], _ => rfl
  | i :: r, h => by
    have hr := firstEnabled_of_disabled (l := r) fun j hj => h j (List.mem_cons_of_mem _ hj)
    simp [firstEnabled, h i List.mem_cons_self, hr]

theorem firstEnabled_append {s : State} {i : Instr} {after : List Instr} (hi : enabled i s = true) :
    ∀ {before : List Instr}, (∀ h ∈ before, enabled h s = false) →
      firstEnabled s (before ++ i :: after) = some (i, before ++ after)
  | [], _ => by simp [firstEnabled, hi]
  | j :: r, h => by
    have hr := firstEnabled_append (after := after) hi (before := r) fun k hk => h k (List.mem_cons_of_mem _ hk)
    simp [firstEnabled, h j List.mem_cons_self, hr]

theorem lift_some {s s' : State} {i : Instr} (h : lift s = some (i, s')) :
    ∃ l r, s' = { s with held := l, rxIn := r } := by
  unfold lift at h
  split at h
  · cases h
    exact ⟨_, s.rxIn, rfl⟩
  · unfold liftInput at h
    split at h
    · split at h
      · cases h
        exact ⟨s.held, _, rfl⟩
      · simp at h
    · simp at h

/-- While no record moves first, a waiting operation that has a move is the next. -/
theorem nextOp_of_mustWait {s : State} (h : RecordMustWait s) {m : Instr × State} (hl : lift s = some m) :
    nextOp s = .ok (some m) := by
  unfold nextOp
  rcases h with h | ⟨i, rest, hd, h⟩
  · simp [h, hl]
  · cases ht : s.trace with
    | nil => rw [ht] at hd; simp [decode] at hd
    | cons b r =>
      rw [ht] at hd
      have : takeable i s = false := by
        rcases h with h | ⟨j, hj, h⟩ | ⟨⟨b, rfl⟩, h⟩
        · simp [takeable, h]
        · simp [takeable, List.any_eq_true.mpr ⟨j, hj, h⟩]
        · simp [takeable, Instr.opcode, h]
      simp [hd, this, hl]

/-- An internal step that moves by itself is one of three, is enabled, and leaves what is still to come alone. -/
theorem internal_some {s s' : State} {i : Instr} (h : internal s = some (i, s')) :
    s' = s ∧ enabled i s = true ∧ (i = .txCksum ∨ i = .rxReplay ∨ i = .rxSettle) := by
  unfold internal at h
  split at h
  · cases h; exact ⟨rfl, ‹_›, .inl rfl⟩
  · split at h
    · cases h; exact ⟨rfl, ‹_›, .inr (.inl rfl)⟩
    · split at h
      · cases h; exact ⟨rfl, ‹_›, .inr (.inr rfl)⟩
      · simp at h

/-- The operation that moves next is run on a state that differs only in what is still to come. -/
theorem nextOp_some {s s' : State} {i : Instr} (h : nextOp s = .ok (some (i, s'))) :
    ∃ l r b, s' = { s with held := l, rxIn := r, trace := b } := by
  unfold nextOp at h
  split at h
  · cases hl : lift s with
    | some m =>
      rw [hl] at h
      obtain ⟨l, r, rfl⟩ := lift_some (hl.trans (Except.ok.inj h))
      exact ⟨l, r, s.trace, rfl⟩
    | none =>
      rw [hl] at h
      obtain ⟨rfl, -, -⟩ := internal_some (Except.ok.inj h)
      exact ⟨_, _, _, rfl⟩
  · split at h
    · simp at h
    · split at h
      · cases h
        exact ⟨s.held, s.rxIn, _, rfl⟩
      · split at h
        · rename_i hl
          cases h
          obtain ⟨l, r, rfl⟩ := lift_some hl
          exact ⟨l, r, s.trace, rfl⟩
        · cases h
          exact ⟨s.held, s.rxIn, _, rfl⟩

/-- A step that answers a next state waits, or runs one operation on a state that differs only in what is still to come. -/
theorem step_next {s t : State} (h : step s = .next t) :
    t = s ∨ ∃ i l r b, exec i { s with held := l, rxIn := r, trace := b } = .next t := by
  unfold step at h
  split at h
  · simp at h
  · exact .inl (by simpa using h.symm)
  · rename_i i s' hn
    obtain ⟨l, r, b, rfl⟩ := nextOp_some hn
    exact .inr ⟨i, l, r, b, h⟩

/-! ## Sequences of operations -/

@[simp] theorem runOps_nil (s : State) : runOps [] s = .next s := rfl

theorem runOps_cons {i : Instr} {r : List Instr} {s s' : State} (h : exec i s = .next s') :
    runOps (i :: r) s = runOps r s' := by
  simp [runOps, h]

theorem runOps_append {a b : List Instr} : ∀ {s s' : State}, runOps a s = .next s' →
    runOps (a ++ b) s = runOps b s' := by
  induction a with
  | nil => intro s s' h; cases h; rfl
  | cons i r ih =>
    intro s s' h
    simp only [runOps, List.cons_append] at h ⊢
    split at h
    · exact ih h
    · simp at h
    · simp at h

theorem runOps_cons_next {i : Instr} {r : List Instr} {s t : State} (h : runOps (i :: r) s = .next t) :
    ∃ s', exec i s = .next s' ∧ runOps r s' = .next t := by
  simp only [runOps] at h
  split at h
  · exact ⟨_, ‹_›, h⟩
  · simp at h
  · simp at h

end Sys2Proof.Machine
end

