-- ==== Sys2Proof/Laws/PerInstr.lean ====
section
/-! SUPPORT. What holds of every instruction as syntax, one lemma per constructor: the length of its bytes
(spec/30_encoding.md R119, R121; R110, R113 and R115 for the wire formats). -/

namespace Sys2Proof.Laws.EncodeLength

/-- The length R121 gives an instruction: fixed by its code, but for the two records with a payload and the transport
steps, whose response's tag decides. -/
def bytes : Instr → Nat
  | .sendFrame _ _ _ payload => 11 + payload.length
  | .cksum s => 5 + s.length
  | .txHdrWrite (.count _) | .txChunkWrite (.count _) | .txTrlWrite (.count _) => 6
  | .txHdrWrite .fail | .txChunkWrite .fail | .txTrlWrite .fail | .txDrain _ => 2
  | .rxByte _ | .ckClear _ => 2
  | .ckAdd _ _ => 3
  | .hdrEncode _ => 17
  | .hdrDecode _ => 21
  | .txCksum | .txDelayDone | .rxReplay | .rxSettle | .rxTimeout | .txStatus | .rxStatus | .reset => 1
  | .wireHeader _ => 20
  | .wireTrailer | .wireStart => 2

/-- The encoding of an instruction has the length R121 gives it. -/
def Statement (i : Instr) : Prop := (encode i).length = bytes i

theorem sendFrame (width height pixelFormat : U16) (payload : List Byte) :
    Statement (.sendFrame width height pixelFormat payload) := by
  simp [Statement, encode, encodeSized, bytes]
  omega

theorem txCksum : Statement .txCksum := rfl

theorem txHdrWrite (r : WriteResp) : Statement (.txHdrWrite r) := by cases r <;> rfl

theorem txDelayDone : Statement .txDelayDone := rfl

theorem txChunkWrite (r : WriteResp) : Statement (.txChunkWrite r) := by cases r <;> rfl

theorem txDrain (r : DrainResp) : Statement (.txDrain r) := by cases r <;> rfl

theorem txTrlWrite (r : WriteResp) : Statement (.txTrlWrite r) := by cases r <;> rfl

theorem rxByte (b : Byte) : Statement (.rxByte b) := rfl

theorem rxReplay : Statement .rxReplay := rfl

theorem rxSettle : Statement .rxSettle := rfl

theorem rxTimeout : Statement .rxTimeout := rfl

theorem ckClear (u : CkUnit) : Statement (.ckClear u) := by cases u <;> rfl

theorem ckAdd (u : CkUnit) (b : Byte) : Statement (.ckAdd u b) := by cases u <;> rfl

theorem cksum (s : List Byte) : Statement (.cksum s) := by
  simp [Statement, encode, encodeSized, bytes]
  omega

theorem hdrEncode (h : Header) : Statement (.hdrEncode h) := rfl

theorem hdrDecode (w : Window) : Statement (.hdrDecode w) := by
  simp [Statement, encode, bytes]

theorem txStatus : Statement .txStatus := rfl

theorem rxStatus : Statement .rxStatus := rfl

theorem reset : Statement .reset := rfl

theorem wireHeader (h : Header) : Statement (.wireHeader h) := rfl

theorem wireTrailer : Statement .wireTrailer := rfl

theorem wireStart : Statement .wireStart := rfl

end Sys2Proof.Laws.EncodeLength
end

