-- ==== Sys2Proof/Laws/Receiver.lean ====
section
/-! SUPPORT. What each operation of the RX agent can do, said once: if it answers a next state, that state is one of these. -/

namespace Sys2Proof.Machine

theorem le16_startMarker : le16 startMarker = [0x55, 0xAA] := by decide

theorem le16_trailerMarker : le16 trailerMarker = [0xAD, 0xDE] := by decide

theorem scanStep_ok {b : Byte} {rx rx' : RxState} (h : scanStep b rx = .ok rx') :
    (rx.prevValid = true ∧ rx.prev = some 0x55 ∧ b = 0xAA ∧ rx' = openWindow rx) ∨ rx' = rx.remember b := by
  unfold scanStep at h
  split at h
  · rename_i hv
    obtain ⟨q, hq, hk⟩ := need_ok h
    split at hk
    · rename_i he
      rw [le16_startMarker] at he
      simp only [List.cons.injEq, and_true] at he
      obtain ⟨rfl, rfl⟩ := he
      exact .inl ⟨hv, hq, rfl, by simpa using hk.symm⟩
    · exact .inr (by simpa using hk.symm)
  · exact .inr (by simpa using h.symm)

theorem headerStep_cases (p : Params) (b : Byte) (rx : RxState) :
    ((rx.win ++ [b]).length ≠ hdrLen ∧ headerStep p b rx = { rx with win := rx.win ++ [b] }) ∨
    ∃ w : Window, rx.win ++ [b] = w.toList ∧
      ((∃ h, hdrDecode p.maxPayloadLen w = .ok h ∧ headerStep p b rx = headerOk h { rx with win := rx.win ++ [b] }) ∨
       (∃ e, hdrDecode p.maxPayloadLen w = .error e ∧
          headerStep p b rx = headerBad e w { rx with win := rx.win ++ [b] })) := by
  cases hw : window? (rx.win ++ [b]) with
  | none => exact .inl ⟨window?_none hw, by simp [headerStep, hw]⟩
  | some w =>
    refine .inr ⟨w, window?_some hw, ?_⟩
    cases hd : hdrDecode p.maxPayloadLen w with
    | ok h => exact .inl ⟨h, rfl, by simp [headerStep, hw, hd]⟩
    | error e => exact .inr ⟨e, rfl, by simp [headerStep, hw, hd]⟩

theorem payloadStep_ok {b : Byte} {rx rx' : RxState} (h : payloadStep b rx = .ok rx') :
    ∃ hd, rx.hdr = some hd ∧
      ((rx.payload.length + 1 = hd.dataLength.toNat ∧ rx' = { rx with
          payload := rx.payload ++ [b], sum := ckAddByte rx.sum b, trl := [], state := .trailerPartial }) ∨
       (rx.payload.length + 1 ≠ hd.dataLength.toNat ∧ rx' = { rx with
          payload := rx.payload ++ [b], sum := ckAddByte rx.sum b })) := by
  unfold payloadStep at h
  obtain ⟨hd, hh, h⟩ := need_ok h
  refine ⟨hd, hh, ?_⟩
  split at h
  · rename_i hl
    exact .inl ⟨by simpa using hl, by simpa using h.symm⟩
  · rename_i hl
    exact .inr ⟨by simpa using hl, by simpa using h.symm⟩

/-- A trailer written out byte by byte. -/
theorem trailer_eq (t : Vector Byte trlLen) : ∃ t0 t1, t = #v[t0, t1] := by
  obtain ⟨⟨l⟩, hl⟩ := t
  match l, hl with
  | [t0, t1], _ => exact ⟨t0, t1, rfl⟩

theorem trailerStep_ok {b : Byte} {rx rx' : RxState} (h : trailerStep b rx = .ok rx') :
    (rx.trl = [0xAD] ∧ b = 0xDE ∧ rx' = { rx with trl := [0xAD, 0xDE], state := .complete }) ∨
    (∃ t0 hd, rx.trl = [t0] ∧ rx.hdr = some hd ∧ ¬(t0 = 0xAD ∧ b = 0xDE) ∧
      rx' = failRx (trailerFailure hd #v[t0, b] rx) { rx with trl := [t0, b] }) ∨
    (rx.trl.length ≠ 1 ∧ rx' = { rx with trl := rx.trl ++ [b] }) := by
  unfold trailerStep at h
  split at h
  · rename_i hx
    exact .inr (.inr ⟨by simpa [trlLen] using exactly?_none hx, by simpa using h.symm⟩)
  · rename_i t ht
    obtain ⟨t0, t1, rfl⟩ := trailer_eq t
    have hl : rx.trl = [t0] ∧ b = t1 := by
      have := List.append_inj' (s₁ := rx.trl) (t₁ := [b]) (s₂ := [t0]) (t₂ := [t1]) (exactly?_some ht) rfl
      simpa using this
    obtain ⟨hl, rfl⟩ := hl
    rw [le16_trailerMarker] at h
    split at h
    · rename_i he
      have he : t0 = 0xAD ∧ b = 0xDE := by simpa [Vector.toList] using he
      obtain ⟨rfl, rfl⟩ := he
      exact .inl ⟨hl, rfl, by simpa using h.symm⟩
    · rename_i he
      obtain ⟨hd, hh, h⟩ := need_ok h
      refine .inr (.inl ⟨t0, hd, hl, hh, ?_, by simpa using h.symm⟩)
      rintro ⟨rfl, rfl⟩
      exact he rfl

theorem execRxByte_next {b : Byte} {s t : State} (h : execRxByte b s = .next t) :
    (rxReady s.rx = true ∧ ∃ rx, rxConsume s.params b { s.rx with input := s.rx.input ++ [b] } = .ok rx ∧
      t = s.setRx rx) ∨ (rxReady s.rx = false ∧ t = s.offer [b]) := by
  rcases guarded_next h with ⟨he, h⟩ | ⟨he, rfl⟩
  · exact .inl ⟨he, takeByte_next h⟩
  · exact .inr ⟨he, rfl⟩

theorem execRxReplay_next {s t : State} (h : execRxReplay s = .next t) :
    (∃ b r rx, s.rx.state.takesBytes = true ∧ s.rx.replay = b :: r ∧
      rxConsume s.params b { s.rx with replay := r } = .ok rx ∧ t = s.setRx rx) ∨
    ((s.rx.state.takesBytes = false ∨ s.rx.replay = []) ∧ t = s.hold .rxReplay) := by
  rcases guarded_next h with ⟨he, h⟩ | ⟨he, rfl⟩
  · simp only [enabled, Bool.and_eq_true, Bool.not_eq_true', List.isEmpty_eq_false_iff] at he
    split at h
    · rename_i b r hr
      obtain ⟨rx, hx, rfl⟩ := liftRx_next h
      exact .inl ⟨b, r, rx, he.1, hr, hx, rfl⟩
    · exact absurd ‹_› he.2
  · refine .inr ⟨?_, rfl⟩
    simp only [enabled, Bool.and_eq_false_iff, Bool.not_eq_false', List.isEmpty_iff] at he
    exact he

theorem execRxSettle_next {s t : State} (h : execRxSettle s = .next t) :
    (s.rx.state = .complete ∧ ∃ hd, s.rx.hdr = some hd ∧
      ((s.rx.sum = hd.checksum ∧
        t = (s.emitRx (.frameOk hd.frameId hd.width hd.height hd.pixelFormat hd.checksum s.rx.payload)).setRx
          { clearFrame (s.rx.recordId hd.frameId) with state := .scanning }) ∨
       (s.rx.sum ≠ hd.checksum ∧
        t = s.setRx (failRx (.checksumMismatch hd.frameId hd.dataLength hd.checksum s.rx.sum) s.rx)))) ∨
    (s.rx.state = .invalid ∧ ∃ e, s.rx.err = some e ∧
      t = (s.emitRx (.frameError e)).setRx { clearFrame s.rx with state := .scanning }) ∨
    (s.rx.state.takesBytes = true ∧ t = s.hold .rxSettle) := by
  rcases guarded_next h with ⟨he, h⟩ | ⟨he, rfl⟩
  · simp only [enabled, Bool.not_eq_true'] at he
    split at h
    · rename_i hs
      refine .inl ⟨hs, ?_⟩
      unfold settleComplete at h
      split at h
      · rename_i hd hh
        refine ⟨hd, hh, ?_⟩
        split at h
        · exact .inl ⟨‹_›, by simpa using h.symm⟩
        · exact .inr ⟨‹_›, by simpa using h.symm⟩
      · simp at h
    · rename_i hs
      unfold settleInvalid at h
      split at h
      · rename_i e hh
        refine .inr (.inl ⟨?_, e, hh, by simpa using h.symm⟩)
        cases hx : s.rx.state <;> simp_all [RxSt.takesBytes]
      · simp at h
  · exact .inr (.inr ⟨by simpa [enabled] using he, rfl⟩)

theorem execRxTimeout_next {s t : State} (h : execRxTimeout s = .next t) :
    (s.rx.state.partialFrame = true ∧ s.rx.replay = [] ∧ ∃ f,
      (s.rx.state ≠ .headerPartial → ∃ hd, s.rx.hdr = some hd ∧ f = some hd.frameId) ∧
      (s.rx.state = .headerPartial → f = none) ∧
      t = s.setRx (failRx (.rxTimeout s.rx.state (BitVec.ofNat 32 (received s.rx)) f) s.rx)) ∨
    ((s.rx.state.partialFrame = false ∨ s.rx.replay ≠ []) ∧ t = s) := by
  rcases guarded_next h with ⟨-, h⟩ | ⟨he, rfl⟩
  · split at h
    · rename_i hc
      simp only [Bool.and_eq_true, List.isEmpty_iff] at hc
      refine .inl ⟨hc.1, hc.2, ?_⟩
      obtain ⟨rx, hx, rfl⟩ := liftRx_next h
      unfold abandon at hx
      split at hx
      · exact ⟨none, fun hn => absurd ‹_› hn, fun _ => rfl, by rw [← Except.ok.inj hx]⟩
      · obtain ⟨hd, hh, hx⟩ := need_ok hx
        exact ⟨some hd.frameId, fun _ => ⟨hd, hh, rfl⟩, fun hn => absurd hn ‹_›,
          by rw [← Except.ok.inj hx]⟩
    · rename_i hc
      simp only [Bool.and_eq_true, List.isEmpty_iff, not_and] at hc
      refine .inr ⟨?_, by simpa using h.symm⟩
      cases hp : s.rx.state.partialFrame
      · exact .inl rfl
      · exact .inr (hc hp)
  · simp [enabled] at he

end Sys2Proof.Machine
end

