-- ==== Sys2Proof/Laws/Sender.lean ====
section
/-! SUPPORT. What each operation of the TX agent can do, said once: if it answers a next state, that state is one of these. -/

namespace Sys2Proof.Machine

theorem execSendFrame_next {w ht f : U16} {p : List Byte} {s t : State} (h : execSendFrame w ht f p s = .next t) :
    fitsU32 p ∧ ((s.tx.state = .idle ∧ t = s.setTx (s.tx.capture w ht f p)) ∨
      (s.tx.state ≠ .idle ∧ t = s.hold (.sendFrame w ht f p))) := by
  unfold execSendFrame at h
  split at h
  · refine ⟨‹_›, ?_⟩
    rcases guarded_next h with ⟨he, h⟩ | ⟨he, rfl⟩
    · exact .inl ⟨by simpa [enabled] using he, by simpa using h.symm⟩
    · exact .inr ⟨by simpa [enabled] using he, rfl⟩
  · simp at h

theorem execTxCksum_next {s t : State} (h : execTxCksum s = .next t) :
    (s.tx.state = .checksum ∧ ∃ w ht f p, s.tx.width = some w ∧ s.tx.height = some ht ∧ s.tx.pixelFormat = some f ∧
      s.tx.payload = some p ∧ t = s.setTx { s.tx with
        sum := cksum p, hdr := some (hdrEncode (frameHeader w ht f s.tx.frameId p)), state := .writeHeader }) ∨
    (s.tx.state ≠ .checksum ∧ t = s.hold .txCksum) := by
  rcases guarded_next h with ⟨he, h⟩ | ⟨he, rfl⟩
  · obtain ⟨w, hw, h⟩ := readField_next h
    obtain ⟨ht, hht, h⟩ := readField_next h
    obtain ⟨f, hf, h⟩ := readField_next h
    obtain ⟨p, hp, h⟩ := readField_next h
    exact .inl ⟨by simpa [enabled] using he, w, ht, f, p, hw, hht, hf, hp, by simpa using h.symm⟩
  · exact .inr ⟨by simpa [enabled] using he, rfl⟩

theorem execTxHdrWrite_next {r : WriteResp} {s t : State} (h : execTxHdrWrite r s = .next t) :
    (s.tx.state = .writeHeader ∧ ∃ hdr n d, s.tx.hdr = some hdr ∧ n ≤ 20 ∧
      (∀ c, r = .count c → n = c.toNat ∧ d = s.draws) ∧
      ((r = .count 20 ∧ t = (s.wrote hdr.toList r n d).setTx { (s.wrote hdr.toList r n d).tx with state := .delay }) ∨
       (r ≠ .count 20 ∧ t = finish .headerWriteError (s.wrote hdr.toList r n d)))) ∨
    (s.tx.state ≠ .writeHeader ∧ t = s.hold (.txHdrWrite r)) := by
  rcases guarded_next h with ⟨he, h⟩ | ⟨he, rfl⟩
  · obtain ⟨hdr, hh, h⟩ := readField_next h
    obtain ⟨n, d, hn, hc, h⟩ := wireWrite_next h
    refine .inl ⟨by simpa [enabled] using he, hdr, n, d, hh, by simpa using hn, hc, ?_⟩
    split at h
    · exact .inl ⟨‹_›, by simpa using h.symm⟩
    · exact .inr ⟨‹_›, by simpa using h.symm⟩
  · exact .inr ⟨by simpa [enabled] using he, rfl⟩

theorem execTxDelayDone_next {s t : State} (h : execTxDelayDone s = .next t) :
    (s.tx.state = .delay ∧ ∃ p, s.tx.payload = some p ∧
      t = s.setTx { s.tx with state := if p.length = 0 then .writeTrailer else .writeChunk }) ∨
    (s.tx.state ≠ .delay ∧ t = s.hold .txDelayDone) := by
  rcases guarded_next h with ⟨he, h⟩ | ⟨he, rfl⟩
  · obtain ⟨p, hp, h⟩ := readField_next h
    exact .inl ⟨by simpa [enabled] using he, p, hp, by simpa using h.symm⟩
  · exact .inr ⟨by simpa [enabled] using he, rfl⟩

theorem execTxChunkWrite_next {r : WriteResp} {s t : State} (h : execTxChunkWrite r s = .next t) :
    (s.tx.state = .writeChunk ∧ ∃ p n d, s.tx.payload = some p ∧ n ≤ (chunk s.params p s.tx.offset).length ∧
      (∀ c, r = .count c → n = c.toNat ∧ d = s.draws) ∧
      ((r = .fail ∨ r = .count 0) ∧
          t = finish .payloadWriteError (s.wrote (chunk s.params p s.tx.offset) r n d) ∨
        ∃ c, r = .count c ∧ c ≠ 0 ∧ t = (s.wrote (chunk s.params p s.tx.offset) r n d).setTx
          { (s.wrote (chunk s.params p s.tx.offset) r n d).tx with
            offset := s.tx.offset + c, bytesSent := s.tx.bytesSent + c, state := .drain })) ∨
    (s.tx.state ≠ .writeChunk ∧ t = s.hold (.txChunkWrite r)) := by
  rcases guarded_next h with ⟨he, h⟩ | ⟨he, rfl⟩
  · obtain ⟨p, hp, h⟩ := readField_next h
    obtain ⟨n, d, hn, hc, h⟩ := wireWrite_next h
    refine .inl ⟨by simpa [enabled] using he, p, n, d, hp, hn, hc, ?_⟩
    split at h
    · exact .inl ⟨.inl rfl, by simpa using h.symm⟩
    · split at h
      · rename_i hz
        exact .inl ⟨.inr (by rw [hz]), by simpa using h.symm⟩
      · exact .inr ⟨_, rfl, ‹_›, by simpa using h.symm⟩
  · exact .inr ⟨by simpa [enabled] using he, rfl⟩

theorem execTxDrain_next {r : DrainResp} {s t : State} (h : execTxDrain r s = .next t) :
    (s.tx.state = .drain ∧
      (r = .timeout ∧ t = finish .payloadWriteError (wireDrain r s) ∨
       r = .done ∧ ∃ p, s.tx.payload = some p ∧ t = (wireDrain r s).setTx
        { s.tx with state := if s.tx.offset.toNat = p.length then .writeTrailer else .writeChunk })) ∨
    (s.tx.state ≠ .drain ∧ t = s.hold (.txDrain r)) := by
  rcases guarded_next h with ⟨he, h⟩ | ⟨he, rfl⟩
  · refine .inl ⟨by simpa [enabled] using he, ?_⟩
    cases r with
    | timeout => exact .inl ⟨rfl, by simpa using h.symm⟩
    | done =>
      obtain ⟨p, hp, h⟩ := readField_next h
      exact .inr ⟨rfl, p, hp, by simpa using h.symm⟩
  · exact .inr ⟨by simpa [enabled] using he, rfl⟩

theorem execTxTrlWrite_next {r : WriteResp} {s t : State} (h : execTxTrlWrite r s = .next t) :
    (s.tx.state = .writeTrailer ∧ ∃ n d, n ≤ 2 ∧ (∀ c, r = .count c → n = c.toNat ∧ d = s.draws) ∧
      ((r = .count 2 ∧ t = finish .ok (s.wrote (le16 trailerMarker) r n d)) ∨
       (r ≠ .count 2 ∧ t = finish .trailerWriteError (s.wrote (le16 trailerMarker) r n d)))) ∨
    (s.tx.state ≠ .writeTrailer ∧ t = s.hold (.txTrlWrite r)) := by
  rcases guarded_next h with ⟨he, h⟩ | ⟨he, rfl⟩
  · obtain ⟨n, d, hn, hc, h⟩ := wireWrite_next h
    refine .inl ⟨by simpa [enabled] using he, n, d, by simpa [le16] using hn, hc, ?_⟩
    split at h
    · exact .inl ⟨‹_›, by simpa using h.symm⟩
    · exact .inr ⟨‹_›, by simpa using h.symm⟩
  · exact .inr ⟨by simpa [enabled] using he, rfl⟩

/-! ## Chunks -/

theorem chunkSize_pos (p : Params) : 0 < p.maxChunkSize.toNat := by
  have := p.chunk_pos
  have : p.maxChunkSize.toNat ≠ 0 := fun h => this (BitVec.eq_of_toNat_eq h)
  omega

@[simp] theorem chunk_length (p : Params) (payload : List Byte) (offset : U32) :
    (chunk p payload offset).length = min p.maxChunkSize.toNat (payload.length - offset.toNat) := by
  simp [chunk]

/-- A prefix of a chunk is that much of the payload from the offset on. -/
theorem chunk_take (p : Params) (payload : List Byte) (offset : U32) (n : Nat)
    (hn : n ≤ (chunk p payload offset).length) :
    (chunk p payload offset).take n = (payload.drop offset.toNat).take n := by
  rw [chunk_length] at hn
  rw [chunk, List.take_take, Nat.min_eq_left (by omega)]

end Sys2Proof.Machine
end

