-- ==== Sys2Proof/Laws/Units.lean ====
section
/-! SUPPORT. What the two micro-operations can do; the operations that are enabled in every state, each by its one equation. -/

namespace Sys2Proof.Machine

theorem execCkClear_next {u : CkUnit} {s t : State} (h : execCkClear u s = .next t) :
    (sumFree u s = true ∧ t = s.setAcc u 0) ∨ (sumFree u s = false ∧ t = s.hold (.ckClear u)) := by
  rcases guarded_next h with ⟨he, h⟩ | ⟨he, rfl⟩
  · exact .inl ⟨he, by simpa using h.symm⟩
  · exact .inr ⟨he, rfl⟩

theorem execCkAdd_next {u : CkUnit} {b : Byte} {s t : State} (h : execCkAdd u b s = .next t) :
    (sumFree u s = true ∧ t = s.setAcc u (ckAddByte (s.acc u) b)) ∨
    (sumFree u s = false ∧ t = s.hold (.ckAdd u b)) := by
  rcases guarded_next h with ⟨he, h⟩ | ⟨he, rfl⟩
  · exact .inl ⟨he, by simpa using h.symm⟩
  · exact .inr ⟨he, rfl⟩

@[simp] theorem execCksum_eq (bytes : List Byte) (s : State) :
    execCksum bytes s = .next (s.answer (.word (cksum bytes))) := rfl

@[simp] theorem execHdrEncode_eq (h : Header) (s : State) :
    execHdrEncode h s = .next (s.answer (.header (hdrEncode h))) := rfl

@[simp] theorem execHdrDecode_eq (w : Window) (s : State) :
    execHdrDecode w s = .next (s.answer (decodeResult (hdrDecode s.params.maxPayloadLen w))) := rfl

@[simp] theorem execTxStatus_eq (s : State) : execTxStatus s = .next (s.answer (.word (txStat s.tx))) := rfl

@[simp] theorem execRxStatus_eq (s : State) : execRxStatus s = .next (s.answer (.word (rxStat s.rx))) := rfl

@[simp] theorem execReset_eq (s : State) : execReset s = .next s.afterReset := rfl

/-- A write to an accumulator of no frame does not make it one of a frame. -/
@[simp] theorem sumFree_setAcc (u u' : CkUnit) (v : U32) (s : State) : sumFree u (s.setAcc u' v) = sumFree u s := by
  cases u <;> cases u' <;> rfl

@[simp] theorem acc_setAcc (u : CkUnit) (v : U32) (s : State) : (s.setAcc u v).acc u = v := by cases u <;> rfl

/-- Writing an accumulator writes no other field of an agent. -/
theorem setAcc_tx (u : CkUnit) (v : U32) (s : State) :
    (s.setAcc u v).tx = { s.tx with sum := if u = .tx then v else s.tx.sum } := by cases u <;> rfl

theorem setAcc_rx (u : CkUnit) (v : U32) (s : State) :
    (s.setAcc u v).rx = { s.rx with sum := if u = .rx then v else s.rx.sum } := by cases u <;> rfl

@[simp] theorem setAcc_txEv (u : CkUnit) (v : U32) (s : State) : (s.setAcc u v).txEv = s.txEv := by cases u <;> rfl
@[simp] theorem setAcc_rxEv (u : CkUnit) (v : U32) (s : State) : (s.setAcc u v).rxEv = s.rxEv := by cases u <;> rfl
@[simp] theorem setAcc_params (u : CkUnit) (v : U32) (s : State) : (s.setAcc u v).params = s.params := by cases u <;> rfl
@[simp] theorem setAcc_held (u : CkUnit) (v : U32) (s : State) : (s.setAcc u v).held = s.held := by cases u <;> rfl
@[simp] theorem setAcc_rxIn (u : CkUnit) (v : U32) (s : State) : (s.setAcc u v).rxIn = s.rxIn := by cases u <;> rfl
@[simp] theorem setAcc_trace (u : CkUnit) (v : U32) (s : State) : (s.setAcc u v).trace = s.trace := by cases u <;> rfl
@[simp] theorem setAcc_cmdOut (u : CkUnit) (v : U32) (s : State) : (s.setAcc u v).cmdOut = s.cmdOut := by cases u <;> rfl
@[simp] theorem setAcc_txPort (u : CkUnit) (v : U32) (s : State) : (s.setAcc u v).txPort = s.txPort := by cases u <;> rfl
@[simp] theorem setAcc_draws (u : CkUnit) (v : U32) (s : State) : (s.setAcc u v).draws = s.draws := by cases u <;> rfl

end Sys2Proof.Machine
end

