-- ==== Sys2Proof/Machine/Text.lean ====
section
/-! DEFINITION. The text form of operations and pseudo-operations (spec/30_encoding.md R122, R123): a reader of one line, total
on characters, and a writer. DESIGN CHOICE (log 27): where the grammar says nothing about blanks, any number of them may
stand between two tokens. -/

namespace Sys2Proof.Machine

/-! ## Characters -/

/-- Drop leading blanks. -/
def skipBlanks : List Char → List Char
  | ' ' :: r => skipBlanks r
  | s => s

/-- What follows the characters `w`. -/
def afterChars : List Char → List Char → Option (List Char)
  | [], s => some s
  | a :: w, b :: s => if a = b then afterChars w s else none
  | _ :: _, [] => none

/-- What follows the token `w`, blanks before it dropped. -/
def expect (w : String) (s : List Char) : Option (List Char) := afterChars w.toList (skipBlanks s)

/-- The value of a hexadecimal digit, of either case. -/
def hexDigit (c : Char) : Option Nat :=
  if 48 ≤ c.toNat ∧ c.toNat ≤ 57 then some (c.toNat - 48)
  else if 65 ≤ c.toNat ∧ c.toNat ≤ 70 then some (c.toNat - 55)
  else if 97 ≤ c.toNat ∧ c.toNat ≤ 102 then some (c.toNat - 87)
  else none

/-- The digits of `base` that `s` begins with, after the digits that gave `acc`. -/
def digits (base : Nat) : Nat → List Char → Nat × List Char
  | acc, [] => (acc, [])
  | acc, c :: s =>
    match hexDigit c with
    | some d => if d < base then digits base (acc * base + d) s else (acc, c :: s)
    | none => (acc, c :: s)

/-- One or more digits of `base`. -/
def digits1 (base : Nat) (s : List Char) : Option (Nat × List Char) :=
  if (digits base 0 s).2 = s then none else some (digits base 0 s)

/-- `num` (R122): decimal, or `0x` and hexadecimal. -/
def readNum (s : List Char) : Option (Nat × List Char) :=
  match afterChars "0x".toList (skipBlanks s) with
  | some r => digits1 16 r
  | none => digits1 10 (skipBlanks s)

/-- A number that fits a field of `n` bits (R13). -/
def readField? (n : Nat) (s : List Char) : Option (BitVec n × List Char) :=
  match readNum s with
  | some (v, r) => if v < 2 ^ n then some (BitVec.ofNat n v, r) else none
  | none => none

/-- `hexbyte` (R122): two hexadecimal digits. -/
def hexByte (a b : Char) : Option Byte :=
  match hexDigit a, hexDigit b with
  | some x, some y => some (BitVec.ofNat 8 (16 * x + y))
  | _, _ => none

/-- `hexbyte` at the head of `s`. -/
def readHexByte (s : List Char) : Option (Byte × List Char) :=
  match skipBlanks s with
  | a :: b :: r => (hexByte a b).map fun v => (v, r)
  | _ => none

/-- `hexbytes?` (R122): bytes with a blank between two of them, as many as there are. -/
def readHexBytes : List Char → List Byte × List Char
  | ' ' :: r => readHexBytes r
  | a :: b :: ' ' :: r =>
    match hexByte a b with
    | some v => (v :: (readHexBytes r).1, (readHexBytes r).2)
    | none => ([], a :: b :: ' ' :: r)
  | a :: b :: r =>
    match hexByte a b with
    | some v => ([v], r)
    | none => ([], a :: b :: r)
  | s => ([], s)

/-! ## Operands (R122) -/

/-- A named number: its key and `num`. -/
def readKeyed (key : String) (n : Nat) (s : List Char) : Option (BitVec n × List Char) :=
  (expect key s).bind (readField? n)

/-- Bytes in brackets, the opening bracket with what stands before it given. -/
def readBytes (opening : String) (s : List Char) : Option (List Byte × List Char) := do
  let s ← expect opening s
  let s' ← expect "]" (readHexBytes s).2
  some ((readHexBytes s).1, s')

/-- `unit` (R122). -/
def readUnit (s : List Char) : Option (CkUnit × List Char) :=
  match expect "tx" s, expect "rx" s with
  | some r, _ => some (.tx, r)
  | none, some r => some (.rx, r)
  | none, none => none

/-- `"->" response` of a write (R122). -/
def readWriteResp (s : List Char) : Option (WriteResp × List Char) := do
  let s ← expect "->" s
  match expect "Fail" s with
  | some r => some (.fail, r)
  | none =>
    let (n, s) ← readKeyed "Count(" 32 s
    let s ← expect ")" s
    some (.count n, s)

/-- `"->" response` of a drain (R122). -/
def readDrainResp (s : List Char) : Option (DrainResp × List Char) := do
  let s ← expect "->" s
  match expect "Done" s, expect "Timeout" s with
  | some r, _ => some (.done, r)
  | none, some r => some (.timeout, r)
  | none, none => none

/-- The operands of `SEND_FRAME`. DEDUCED (log 27): the payload may be empty, as it is in vector V-EN-2. -/
def readSendFrame (s : List Char) : Option (Instr × List Char) := do
  let (width, s) ← readKeyed "w=" 16 s
  let (height, s) ← readKeyed "h=" 16 s
  let (pixelFormat, s) ← readKeyed "fmt=" 16 s
  let (payload, s) ← readBytes "payload=[" s
  some (.sendFrame width height pixelFormat payload, s)

/-- The operands of `CK_ADD`. -/
def readCkAdd (s : List Char) : Option (Instr × List Char) := do
  let (u, s) ← readUnit s
  let s ← expect "," s
  let (b, s) ← readHexByte s
  some (.ckAdd u b, s)

/-- The operands of `HDR_ENCODE`. -/
def readHdrEncode (s : List Char) : Option (Instr × List Char) := do
  let (width, s) ← readKeyed "w=" 16 s
  let (height, s) ← readKeyed "h=" 16 s
  let (dataLength, s) ← readKeyed "len=" 32 s
  let (pixelFormat, s) ← readKeyed "fmt=" 16 s
  let (frameId, s) ← readKeyed "id=" 16 s
  let (checksum, s) ← readKeyed "ck=" 32 s
  some (.hdrEncode ⟨width, height, dataLength, pixelFormat, frameId, checksum⟩, s)

/-- The operands of `HDR_DECODE`: exactly `hdrLen` bytes. -/
def readHdrDecode (s : List Char) : Option (Instr × List Char) := do
  let (bytes, s) ← readBytes "[" s
  (window? bytes).map fun w => (.hdrDecode w, s)

/-- The operands and the response after a mnemonic (R122). -/
def readOperands (o : Opcode) (s : List Char) : Option (Instr × List Char) :=
  match o with
  | .sendFrame => readSendFrame s
  | .txCksum => some (.txCksum, s)
  | .txHdrWrite => (readWriteResp s).map fun (r, s) => (.txHdrWrite r, s)
  | .txDelayDone => some (.txDelayDone, s)
  | .txChunkWrite => (readWriteResp s).map fun (r, s) => (.txChunkWrite r, s)
  | .txDrain => (readDrainResp s).map fun (r, s) => (.txDrain r, s)
  | .txTrlWrite => (readWriteResp s).map fun (r, s) => (.txTrlWrite r, s)
  | .rxByte => (readHexByte s).map fun (b, s) => (.rxByte b, s)
  | .rxReplay => some (.rxReplay, s)
  | .rxSettle => some (.rxSettle, s)
  | .rxTimeout => some (.rxTimeout, s)
  | .ckClear => (readUnit s).map fun (u, s) => (.ckClear u, s)
  | .ckAdd => readCkAdd s
  | .cksum => (readBytes "[" s).map fun (b, s) => (.cksum b, s)
  | .hdrEncode => readHdrEncode s
  | .hdrDecode => readHdrDecode s
  | .txStatus => some (.txStatus, s)
  | .rxStatus => some (.rxStatus, s)
  | .reset => some (.reset, s)

/-! ## Lines (R122, R123) -/

/-- An operation's mnemonic (R118). -/
def mnemonicOf : Opcode → String
  | .sendFrame => "SEND_FRAME"
  | .txCksum => "TX_CKSUM"
  | .txHdrWrite => "TX_HDR_WRITE"
  | .txDelayDone => "TX_DELAY_DONE"
  | .txChunkWrite => "TX_CHUNK_WRITE"
  | .txDrain => "TX_DRAIN"
  | .txTrlWrite => "TX_TRL_WRITE"
  | .rxByte => "RX_BYTE"
  | .rxReplay => "RX_REPLAY"
  | .rxSettle => "RX_SETTLE"
  | .rxTimeout => "RX_TIMEOUT"
  | .ckClear => "CK_CLEAR"
  | .ckAdd => "CK_ADD"
  | .cksum => "CKSUM"
  | .hdrEncode => "HDR_ENCODE"
  | .hdrDecode => "HDR_DECODE"
  | .txStatus => "TX_STATUS"
  | .rxStatus => "RX_STATUS"
  | .reset => "RESET"

/-- A line of a test program: an operation or a pseudo-operation. -/
inductive Line where
  | op (i : Instr)
  | pseudo (p : Pseudo)
deriving DecidableEq, Repr

/-- What stands after a mnemonic, as a line. -/
def readRest (name : List Char) (s : List Char) : Option (Line × List Char) :=
  match (opcodeTable.map (·.2)).find? fun o => (mnemonicOf o).toList = name with
  | some o => (readOperands o s).map fun (i, s) => (.op i, s)
  | none =>
    if name = "FEED".toList then
      if (readHexBytes s).1 = [] then none else some (.pseudo (.feed (readHexBytes s).1), (readHexBytes s).2)
    else if name = "DRAIN_RX".toList then some (.pseudo .drainRx, s)
    else if name = "TX_RUN_OK".toList then some (.pseudo .txRunOk, s)
    else none

/-- A character of a mnemonic. -/
def nameChar (c : Char) : Bool := c = '_' ∨ (65 ≤ c.toNat ∧ c.toNat ≤ 90)

/-- Read a line (R122): the text after a semicolon is a comment; anything else left over makes it no line. -/
def readLine (text : String) : Option Line :=
  let s := skipBlanks (text.toList.takeWhile (· ≠ ';'))
  match readRest (s.takeWhile nameChar) (s.dropWhile nameChar) with
  | some (l, r) => if skipBlanks r = [] then some l else none
  | none => none

/-- The operations a line stands for in a state. -/
def Line.ops (l : Line) (s : State) : List Instr :=
  match l with
  | .op i => [i]
  | .pseudo p => p.ops s

/-- A test program: the lines one after another, each expanded in the state it is reached in (R123). -/
def runLines : List Line → State → Result
  | [], s => .next s
  | l :: r, s =>
    match runOps (l.ops s) s with
    | .next s' => runLines r s'
    | .fault f => .fault f
    | .refused x => .refused x

/-! ## Writing (R122) -/

/-- A digit as a character, letters in capitals. -/
def digitChar (d : Nat) : Char := Char.ofNat (if d < 10 then 48 + d else 55 + d)

/-- The decimal digits of a number below 10 to the power of the fuel, in front of `acc`. -/
def decimalChars : Nat → Nat → List Char → List Char
  | 0, _, acc => acc
  | k + 1, n, acc =>
    if n < 10 then digitChar n :: acc else decimalChars k (n / 10) (digitChar (n % 10) :: acc)

/-- A field in decimal; 10 digits hold every u32. -/
def decimal {n : Nat} (v : BitVec n) : String := String.ofList (decimalChars 10 v.toNat [])

/-- `hexbyte` (R122). -/
def hexText (b : Byte) : String := String.ofList [digitChar (b.toNat / 16), digitChar (b.toNat % 16)]

/-- `hexbytes?` (R122). -/
def hexTexts : List Byte → String
  | [] => ""
  | [b] => hexText b
  | b :: r => hexText b ++ " " ++ hexTexts r

def unitText : CkUnit → String
  | .tx => "tx"
  | .rx => "rx"

def writeRespText : WriteResp → String
  | .count n => " -> Count(" ++ decimal n ++ ")"
  | .fail => " -> Fail"

def drainRespText : DrainResp → String
  | .done => " -> Done"
  | .timeout => " -> Timeout"

/-- The text after the mnemonic. -/
def operandText : Instr → String
  | .sendFrame width height pixelFormat payload =>
    " w=" ++ decimal width ++ " h=" ++ decimal height ++ " fmt=" ++ decimal pixelFormat ++
      " payload=[" ++ hexTexts payload ++ "]"
  | .txHdrWrite r | .txChunkWrite r | .txTrlWrite r => writeRespText r
  | .txDrain r => drainRespText r
  | .rxByte b => " " ++ hexText b
  | .ckClear u => " " ++ unitText u
  | .ckAdd u b => " " ++ unitText u ++ "," ++ hexText b
  | .cksum bytes => " [" ++ hexTexts bytes ++ "]"
  | .hdrEncode h =>
    " w=" ++ decimal h.width ++ " h=" ++ decimal h.height ++ " len=" ++ decimal h.dataLength ++
      " fmt=" ++ decimal h.pixelFormat ++ " id=" ++ decimal h.frameId ++ " ck=" ++ decimal h.checksum
  | .hdrDecode w => " [" ++ hexTexts w.toList ++ "]"
  | .txCksum | .txDelayDone | .rxReplay | .rxSettle | .rxTimeout | .txStatus | .rxStatus | .reset
  | .wireHeader _ | .wireTrailer | .wireStart => ""

/-- An operation's line; the wire formats have no mnemonic of R118 and no line. -/
def writeLine (i : Instr) : Option String :=
  i.opcode.map fun o => mnemonicOf o ++ operandText i

end Sys2Proof.Machine
end

