-- ==== Sys2Proof/Tests/Slice0.lean ====
section
/-! SUPPORT. Tests. Every expected result is from spec/95_test_vectors.md (its vector is named) or from a rule's own example; then a
witness for the hypotheses of each statement in Certificates/Slice0/Obligations.lean. -/

namespace Sys2Proof.Tests

open Sys2Proof.Machine

/-! ## Small states -/

/-- An instance with `MAX_CHUNK_SIZE` = 3 and `MAX_PAYLOAD_LEN` = 9216. -/
def params3 : Params := ⟨3, 9216, 10, 5, 100, [], .noLine, by decide⟩

/-- The reset state of that instance. -/
def base : State := { State.reset with params := params3 }

/-- The header of Frame A (spec/95_test_vectors.md, Conventions). -/
def hdrA : Header := ⟨2, 1, 4, 0, 0, 0x105⟩

/-- `P_A`. -/
def payloadA : List Byte := [0x01, 0x02, 0x03, 0xFF]

/-- `HDR_A`, written out. -/
def bytesA : Vector Byte 20 :=
  #v[0x55, 0xAA, 0x02, 0x00, 0x01, 0x00, 0x04, 0x00, 0x00, 0x00, 0x00, 0x00, 0x00, 0x00, 0x05, 0x01, 0x00, 0x00, 0xAA, 0x55]

/-- Frame A on TX in a state from `Checksum` on, with `offset` payload bytes sent. -/
def txA (st : TxSt) (offset : U32) : State :=
  { base with tx := { TxState.reset with
      state := st, width := some 2, height := some 1, pixelFormat := some 0, payload := some payloadA,
      sum := 0x105, hdr := some (hdrEncode hdrA), offset := offset, bytesSent := offset } }

/-- Frame A on TX right after `SEND_FRAME`. -/
def txStart : State :=
  { base with tx := { TxState.reset with
      state := .checksum, width := some 2, height := some 1, pixelFormat := some 0, payload := some payloadA } }

/-- A receiver in state `st` with fields of its own. -/
def rxOf (rx : RxState) : State := { base with rx := rx }

/-- RX scanning, with the byte scanned last. -/
def scanning (prev : Option Byte) : RxState := { RxState.reset with prevValid := prev.isSome, prev := prev }

/-- RX with the window `win`. -/
def window (win : List Byte) : RxState := { RxState.reset with state := .headerPartial, win := win }

/-- RX in Frame A with `got` payload bytes. -/
def gathering (got : List Byte) : RxState :=
  { RxState.reset with state := .payloadPartial, hdr := some hdrA, payload := got, sum := cksum got }

/-- RX in Frame A with payload `got` and trailer bytes `trl`. -/
def trailing (st : RxSt) (got trl : List Byte) : RxState :=
  { RxState.reset with state := st, hdr := some hdrA, payload := got, sum := cksum got, trl := trl }

/-- The state an operation leads to, if it completes. -/
def after (i : Instr) (s : State) : Option State :=
  match exec i s with
  | .next t => some t
  | .fault _ => none
  | .refused _ => none

/-- The state one step leads to, if there is one. -/
def stepped (s : State) : Option State :=
  match step s with
  | .next t => some t
  | .fault _ => none
  | .refused _ => none

/-- The state a sequence of operations leads to, if every one completes. -/
def ran (ops : List Instr) (s : State) : Option State :=
  match runOps ops s with
  | .next t => some t
  | .fault _ => none
  | .refused _ => none

/-- Why an operation is refused, if it is. -/
def refusal (i : Instr) (s : State) : Option Refusal :=
  match exec i s with
  | .next _ => none
  | .fault _ => none
  | .refused r => some r

/-! ## WellFormed -/

theorem test_long_payload_ill_formed : ¬(Instr.sendFrame 0 0 0 (List.replicate (2 ^ 32) 0)).WellFormed := by
  simp only [Instr.WellFormed, fitsU32, List.length_replicate]
  omega

theorem test_long_cksum_ill_formed : ¬(Instr.cksum (List.replicate (2 ^ 32) 0)).WellFormed := by
  simp only [Instr.WellFormed, fitsU32, List.length_replicate]
  omega

theorem test_longest_payload_well_formed : (Instr.sendFrame 0 0 0 (List.replicate (2 ^ 32 - 1) 0)).WellFormed := by
  simp only [Instr.WellFormed, fitsU32, List.length_replicate]
  omega

/-! ## Decode: words written out from spec/30_encoding.md R118 and R119 (V-EN) -/

/-- V-EN-1. -/
theorem test_decode_sendFrame :
    decode [0x01, 0x02, 0x00, 0x01, 0x00, 0x00, 0x00, 0x04, 0x00, 0x00, 0x00, 0x01, 0x02, 0x03, 0xFF] =
      .ok (.sendFrame 2 1 0 payloadA, []) := rfl

/-- V-EN-2. -/
theorem test_decode_sendFrame_empty :
    decode [0x01, 0x00, 0x00, 0x00, 0x00, 0x01, 0x00, 0x00, 0x00, 0x00, 0x00] = .ok (.sendFrame 0 0 1 [], []) := rfl

theorem test_decode_txCksum : decode [0x02] = .ok (.txCksum, []) := rfl

/-- V-EN-3. -/
theorem test_decode_txHdrWrite : decode [0x03, 0x00, 0x14, 0x00, 0x00, 0x00] = .ok (.txHdrWrite (.count 20), []) := rfl

theorem test_decode_txDelayDone : decode [0x04] = .ok (.txDelayDone, []) := rfl

/-- V-EN-4. -/
theorem test_decode_txChunkWrite : decode [0x05, 0x01] = .ok (.txChunkWrite .fail, []) := rfl

/-- V-EN-5. -/
theorem test_decode_txDrain :
    decode [0x06, 0x00] = .ok (.txDrain .done, []) ∧ decode [0x06, 0x01] = .ok (.txDrain .timeout, []) := ⟨rfl, rfl⟩

/-- V-EN-6. -/
theorem test_decode_txTrlWrite : decode [0x07, 0x00, 0x01, 0x00, 0x00, 0x00] = .ok (.txTrlWrite (.count 1), []) := rfl

/-- V-EN-7. -/
theorem test_decode_rxByte : decode [0x10, 0x55] = .ok (.rxByte 0x55, []) := rfl

/-- V-EN-8; a second record follows the first (log 26). -/
theorem test_decode_rx_steps :
    decode [0x11, 0x12] = .ok (.rxReplay, [0x12]) ∧ decode [0x12] = .ok (.rxSettle, []) ∧
    decode [0x13] = .ok (.rxTimeout, []) := ⟨rfl, rfl, rfl⟩

/-- V-EN-9. -/
theorem test_decode_ck :
    decode [0x20, 0x01] = .ok (.ckClear .rx, []) ∧ decode [0x21, 0x00, 0xFF] = .ok (.ckAdd .tx 0xFF, []) := ⟨rfl, rfl⟩

/-- V-EN-10. -/
theorem test_decode_cksum :
    decode [0x22, 0x04, 0x00, 0x00, 0x00, 0x01, 0x02, 0x03, 0xFF] = .ok (.cksum payloadA, []) := rfl

/-- V-EN-11. -/
theorem test_decode_hdrEncode :
    decode [0x30, 0x02, 0x00, 0x01, 0x00, 0x04, 0x00, 0x00, 0x00, 0x00, 0x00, 0x00, 0x00, 0x05, 0x01, 0x00, 0x00] =
      .ok (.hdrEncode hdrA, []) := rfl

/-- V-EN-12. -/
theorem test_decode_hdrDecode : decode (0x31 :: bytesA.toList) = .ok (.hdrDecode bytesA, []) := rfl

/-- V-EN-13. -/
theorem test_decode_status :
    decode [0x40] = .ok (.txStatus, []) ∧ decode [0x41] = .ok (.rxStatus, []) ∧ decode [0x7F] = .ok (.reset, []) :=
  ⟨rfl, rfl, rfl⟩

/-- V-EN-14. -/
theorem test_decode_reserved :
    ([0x00, 0x08, 0x14, 0x23, 0x32, 0x42, 0x7E, 0x80, 0xFF] : List Byte).map Opcode.ofByte =
      List.replicate 9 none := by decide

/-- V-EN-15. -/
theorem test_decode_invalid :
    decode [0x03, 0x02] = .error (.badWriteTag 0x02) ∧ decode [0x06, 0x02] = .error (.badDrainByte 0x02) ∧
    decode [0x20, 0x02] = .error (.badUnit 0x02) ∧ decode [0x01, 0x02, 0x00] = .error .shortRecord :=
  ⟨rfl, rfl, rfl, rfl⟩

/-- R111, R113, R115: the wire formats, and a block that is none of them. -/
theorem test_decode_wire :
    decodeInput bytesA.toList = .ok (.wireHeader hdrA, []) ∧ decodeInput [0xAD, 0xDE] = .ok (.wireTrailer, []) ∧
    decodeInput [0x55, 0xAA] = .ok (.wireStart, []) ∧ decodeInput [0xDE, 0xAD] = .ok (.rxByte 0xDE, [0xAD]) :=
  ⟨rfl, rfl, rfl, rfl⟩

/-- Words of the opcode table: SEND_FRAME with no operand bits, WIRE_START and WIRE_TRAILER. -/
theorem test_table_words :
    decodeTableWord 8 0x01 = some (.sendFrame 0 0 0 []) ∧ decodeTableWord 16 0x55AA = some .wireStart ∧
    decodeTableWord 16 0xDEAD = some .wireTrailer ∧ decodeTableWord 8 0x7E = none := by decide

/-- The first operation after reset is the one placed. -/
theorem test_fetch :
    (stepped (base.withFetchWord 8 0x40)).map (·.cmdOut) = some [.word 0] ∧
    (stepped (base.withFetchWord 16 0x55AA)).map (·.rx.win) = some [0x55, 0xAA] := by decide

/-! ## Checksum unit (V-CK) -/

/-- V-CK-3, V-CK-6, V-CK-7, V-CK-9, V-CK-10. -/
theorem test_cksum_values :
    cksum payloadA = 0x105 ∧ cksum [0xFF, 0x03, 0x02, 0x01] = 0x105 ∧ cksum [0x01, 0x02, 0x04, 0xFF] = 0x106 ∧
    cksum [0x10, 0x20, 0x30, 0x40, 0x50] = 0xF0 ∧ cksum [0x55, 0xAA, 0x55, 0xAA] = 0x1FE := by decide

theorem test_cksum_returned : (after (.cksum payloadA) base).map (·.cmdOut) = some [.word 0x105] := by decide

/-- The micro-operations below the table: 0x104 and FF; the wrap at 2^32; a zero-extended byte (R141). -/
theorem test_ckAdd :
    ckAddByte 0x104 0xFF = 0x203 ∧ ckAddByte 0xFFFFFFFF 0x01 = 0 ∧ ckAddByte 0xFFFFFF80 0xFF = 0x7F ∧
    (after (.ckAdd .tx 0xFF) { base with tx := { TxState.reset with sum := 0x104 } }).map (·.tx.sum) = some 0x203 := by
  decide

/-- R140's example; while the accumulator holds a frame's checksum the operation waits (R39). -/
theorem test_ckClear :
    (after (.ckClear .rx) (rxOf { scanning none with sum := 0x105 })).map (·.rx.sum) = some 0 ∧
    (after (.ckClear .rx) (rxOf (gathering [0x01]))).map (fun t => (t.rx.sum, t.held)) =
      some (1, [.ckClear .rx]) := by decide

/-! ## Header codec (V-HC) -/

/-- V-HC-1. -/
theorem test_hdrEncode_A : hdrEncode hdrA = bytesA := by decide

/-- V-HC-2 and V-HC-3. -/
theorem test_hdrEncode_more :
    hdrBytes ⟨5, 1, 5, 2, 7, 0xF0⟩ =
      [0x55, 0xAA, 0x05, 0x00, 0x01, 0x00, 0x05, 0x00, 0x00, 0x00, 0x02, 0x00, 0x07, 0x00, 0xF0, 0x00, 0x00, 0x00,
       0xAA, 0x55] ∧
    hdrBytes ⟨0, 0, 0, 1, 0xFFFF, 0⟩ =
      [0x55, 0xAA, 0x00, 0x00, 0x00, 0x00, 0x00, 0x00, 0x00, 0x00, 0x01, 0x00, 0xFF, 0xFF, 0x00, 0x00, 0x00, 0x00,
       0xAA, 0x55] := by decide

/-- V-HC-6 and V-HC-16: the bound is inclusive. -/
theorem test_hdrDecode_bound :
    hdrDecode 9216 bytesA = .ok hdrA ∧ hdrDecode 4 bytesA = .ok hdrA ∧
    hdrDecode 3 bytesA = .error .payloadTooLarge := ⟨rfl, rfl, rfl⟩

/-- V-HC-7, V-HC-8 and V-HC-11: a wrong marker, and the marker check before the length check. -/
theorem test_hdrDecode_markers :
    hdrDecode 9216 (bytesA.set 0 0x54) = .error .malformedHeader ∧
    hdrDecode 9216 (bytesA.set 19 0x56) = .error .malformedHeader ∧
    hdrDecode 0 (bytesA.set 0 0x00) = .error .malformedHeader := ⟨rfl, rfl, rfl⟩

theorem test_hdr_returned :
    (after (.hdrDecode bytesA) base).map (·.cmdOut) = some [.decoded hdrA] ∧
    (after (.hdrEncode hdrA) base).map (·.cmdOut) = some [.header bytesA] := by decide

/-! ## Frame sender and chunked transmitter: the trace of 95_test_vectors.md section 2.5, with C = 3 -/

theorem test_sendFrame :
    (after (.sendFrame 2 1 0 payloadA) base).map (fun t => (t.tx.state, t.tx.offset, txStat t.tx)) =
      some (.checksum, 0, 1) := by decide

/-- V-FS-7: held while TX is in `Drain`. -/
theorem test_sendFrame_held :
    (after (.sendFrame 0 0 1 []) (txA .drain 3)).map (fun t => (t.tx.state, t.held)) =
      some (.drain, [.sendFrame 0 0 1 []]) := by decide

theorem test_txCksum :
    (after .txCksum txStart).map (fun t => (t.tx.sum, t.tx.hdr, txStat t.tx)) = some (0x105, some bytesA, 2) := by
  decide

theorem test_txHdrWrite :
    (after (.txHdrWrite (.count 20)) (txA .writeHeader 0)).map (fun t => (t.tx.wire, txStat t.tx)) =
      some (bytesA.toList, 3) := by decide

/-- V-FS-1. -/
theorem test_txHdrWrite_short :
    (after (.txHdrWrite (.count 19)) (txA .writeHeader 0)).map (fun t => (t.tx.wire, t.txEv, txStat t.tx)) =
      some (bytesA.toList.take 19, [⟨.headerWriteError, 0, 0⟩], 0x00010000) := by decide

theorem test_txDelayDone :
    (after .txDelayDone (txA .delay 0)).map (·.tx.state) = some .writeChunk := by decide

/-- V-FS-6: an empty payload goes straight to the trailer. -/
theorem test_txDelayDone_empty :
    (after .txDelayDone { base with tx := { (txA .delay 0).tx with payload := some [] } }).map (·.tx.state) =
      some .writeTrailer := by decide

theorem test_txChunkWrite :
    (after (.txChunkWrite (.count 3)) (txA .writeChunk 0)).map (fun t => (t.tx.wire, t.tx.offset, t.tx.state)) =
      some ([0x01, 0x02, 0x03], 3, .drain) := by decide

/-- V-CT-1. -/
theorem test_txChunkWrite_zero :
    (after (.txChunkWrite (.count 0)) (txA .writeChunk 0)).map (fun t => (t.tx.wire, t.txEv, t.tx.frameId)) =
      some ([], [⟨.payloadWriteError, 0, 0⟩], 1) := by decide

/-- The last chunk is shorter: after `01 02 03` of a 4-byte payload it is `FF`, and a count of 2 is not admitted. -/
theorem test_txChunkWrite_last :
    chunk params3 payloadA 3 = [0xFF] ∧
    refusal (.txChunkWrite (.count 2)) (txA .writeChunk 3) = some .countExceedsRequest := by decide

theorem test_txDrain :
    (after (.txDrain .done) (txA .drain 3)).map (·.tx.state) = some .writeChunk ∧
    (after (.txDrain .done) (txA .drain 4)).map (·.tx.state) = some .writeTrailer := by decide

/-- V-CT-3. -/
theorem test_txDrain_timeout :
    (after (.txDrain .timeout) (txA .drain 3)).map (fun t => (t.txEv, txStat t.tx)) =
      some ([⟨.payloadWriteError, 0, 3⟩], 0x00010000) := by decide

theorem test_txTrlWrite :
    (after (.txTrlWrite (.count 2)) (txA .writeTrailer 4)).map (fun t => (t.tx.wire, t.txEv, txStat t.tx)) =
      some ([0xAD, 0xDE], [⟨.ok, 0, 4⟩], 0x00010000) := by decide

/-- V-FS-4, and the counter's wrap of V-FS-6. -/
theorem test_txTrlWrite_short_and_wrap :
    (after (.txTrlWrite (.count 1)) { base with tx := { (txA .writeTrailer 4).tx with frameId := 0xFFFF } }).map
      (fun t => (t.tx.wire, t.txEv, t.tx.frameId)) = some ([0xAD], [⟨.trailerWriteError, 0xFFFF, 4⟩], 0) := by decide

/-! ## Frame receiver (V-RX) -/

/-- V-RX-1 and V-RX-2, their last byte. -/
theorem test_rxByte_start :
    (after (.rxByte 0xAA) (rxOf (scanning (some 0x55)))).map (fun t => (t.rx.win, t.rx.prevValid, rxStat t.rx)) =
      some ([0x55, 0xAA], false, 1) := by decide

/-- V-RX-9's fourth byte would complete the payload of Frame A; the checksum is then 0x105. -/
theorem test_rxByte_payload :
    (after (.rxByte 0xFF) (rxOf (gathering [0x01, 0x02, 0x03]))).map
      (fun t => (t.rx.state, t.rx.payload, t.rx.sum)) = some (.trailerPartial, payloadA, 0x105) := by decide

/-- V-RX-6. -/
theorem test_rxByte_bad_trailer :
    (after (.rxByte 0xDF) (rxOf (trailing .trailerPartial payloadA [0xAD]))).map (fun t => (t.rx.state, t.rx.err)) =
      some (.invalid, some (.checksumOrFramingMismatch 0 #v[0xAD, 0xDF] true 0x105 0x105)) := by decide

/-- V-RX-17: a bad end marker; bytes 1 to 19 are queued. -/
theorem test_rxByte_bad_window :
    (after (.rxByte 0x56) (rxOf (window (bytesA.toList.take 19)))).map
      (fun t => (t.rx.state, t.rx.err, t.rx.replay)) =
      some (.invalid, some (.malformedHeader (bytesA.set 19 0x56)), (bytesA.set 19 0x56).toList.drop 1) := by decide

/-- R241's example, its third and fourth byte. -/
theorem test_rxReplay :
    (after .rxReplay (rxOf { scanning (some 0x55) with replay := [0xAA, 0x02] })).map
      (fun t => (t.rx.win, t.rx.replay, t.rx.input)) = some ([0x55, 0xAA], [0x02], []) := by decide

/-- V-RX-4: the settle. -/
theorem test_rxSettle_good :
    (after .rxSettle (rxOf (trailing .complete payloadA [0xAD, 0xDE]))).map (fun t => (t.rxEv, rxStat t.rx)) =
      some ([.frameOk 0 2 1 0 0x105 payloadA], 8) := by decide

/-- V-RX-5: the first settle. -/
theorem test_rxSettle_mismatch :
    (after .rxSettle (rxOf (trailing .complete [0x01, 0x02, 0x04, 0xFF] [0xAD, 0xDE]))).map
      (fun t => (t.rxEv, t.rx.err)) = some ([], some (.checksumMismatch 0 4 0x105 0x106)) := by decide

/-- V-RX-8 and V-RX-9. -/
theorem test_rxTimeout :
    (after .rxTimeout (rxOf (window [0x55, 0xAA, 0x01, 0x02, 0x03]))).map (·.rx.err) =
      some (some (.rxTimeout .headerPartial 5 none)) ∧
    (after .rxTimeout (rxOf (gathering [0x01, 0x02, 0x03]))).map (·.rx.err) =
      some (some (.rxTimeout .payloadPartial 3 (some 0))) := by decide

/-- V-RX-3: a timeout in `Scanning` changes nothing. -/
theorem test_rxTimeout_scanning :
    after .rxTimeout (rxOf (scanning (some 0x55))) = some (rxOf (scanning (some 0x55))) := by decide

/-- R110, R113, R115: the wire formats of Frame A at a receiver that expects them. -/
theorem test_wire_formats :
    (after .wireStart (rxOf (scanning none))).map (·.rx.win) = some [0x55, 0xAA] ∧
    (after (.wireHeader hdrA) (rxOf (scanning none))).map (fun t => (t.rx.state, t.rx.hdr)) =
      some (.payloadPartial, some hdrA) ∧
    (after .wireTrailer (rxOf (trailing .trailerPartial payloadA []))).map (·.rx.state) = some .complete := by decide

/-! ## Status and reset (V-ST, V-RS) -/

/-- V-ST-2 and V-ST-3. -/
theorem test_txStatus :
    txStat { TxState.reset with state := .checksum, frameId := 7 } = 0x00070001 ∧
    (after .txStatus { base with tx := { TxState.reset with frameId := 8 } }).map (·.cmdOut) =
      some [.word 0x00080000] := by decide

/-- V-ST-4, V-ST-5, V-ST-6 and V-ST-7. -/
theorem test_rxStatus :
    rxStat { RxState.reset with state := .payloadPartial, lastIdValid := true } = 0x0000000A ∧
    rxStat { RxState.reset with state := .complete } = 0x00000004 ∧
    rxStat { RxState.reset with state := .invalid, lastIdValid := true, lastId := 3 } = 0x0003000D ∧
    (after .rxStatus (rxOf { RxState.reset with lastIdValid := true, lastId := 7 })).map (·.cmdOut) =
      some [.word 0x00070008] := by decide

/-- V-RS-1 and V-RS-2. -/
theorem test_reset :
    (after .reset (txA .delay 0)).map (fun t => (t.tx, t.txEv)) = some (TxState.reset, []) ∧
    (after .reset (rxOf (window [0x55, 0xAA, 0x02]))).map (fun t => (t.rx, t.rxEv)) = some (RxState.reset, []) := by
  decide

/-! ## Text form and pseudo-operations (V-EN, V-RX, 95_test_vectors.md programs P1 and P2) -/

/-- V-EN-1, V-EN-4 with a comment, V-EN-9 and V-EN-11. -/
theorem test_readLine :
    readLine "SEND_FRAME w=2 h=1 fmt=0 payload=[01 02 03 FF]" = some (.op (.sendFrame 2 1 0 payloadA)) ∧
    readLine "TX_CHUNK_WRITE -> Fail ; P4" = some (.op (.txChunkWrite .fail)) ∧
    readLine "CK_ADD tx,FF" = some (.op (.ckAdd .tx 0xFF)) ∧
    readLine "HDR_ENCODE w=2 h=1 len=4 fmt=0 id=0 ck=0x105" = some (.op (.hdrEncode hdrA)) ∧
    readLine "FEED 55 AA" = some (.pseudo (.feed [0x55, 0xAA])) := by decide

/-- R122: a response is required, a byte has two digits, a count fits 32 bits. -/
theorem test_readLine_rejects :
    readLine "TX_DRAIN" = none ∧ readLine "RX_BYTE 5" = none ∧ readLine "CK_CLEAR both" = none ∧
    readLine "TX_TRL_WRITE -> Count(4294967296)" = none := by decide

/-- V-EN-1, V-EN-3 and V-EN-7. -/
theorem test_writeLine :
    writeLine (.sendFrame 2 1 0 payloadA) = some "SEND_FRAME w=2 h=1 fmt=0 payload=[01 02 03 FF]" ∧
    writeLine (.txHdrWrite (.count 20)) = some "TX_HDR_WRITE -> Count(20)" ∧
    writeLine (.rxByte 0x55) = some "RX_BYTE 55" := by decide

/-- P1, records 3 to 10. -/
theorem test_txRunOk :
    txRunOk 3 4 = [.txCksum, .txHdrWrite (.count 20), .txDelayDone, .txChunkWrite (.count 3), .txDrain .done,
      .txChunkWrite (.count 1), .txDrain .done, .txTrlWrite (.count 2)] := by decide

/-- P2: 30 steps, the last an `RX_SETTLE`. -/
theorem test_feed :
    (feedEager ([0x00, 0x55, 0x13] ++ bytesA.toList ++ payloadA ++ [0xAD, 0xDE]) base).1.length = 30 ∧
    (feedEager ([0x00, 0x55, 0x13] ++ bytesA.toList ++ payloadA ++ [0xAD, 0xDE]) base).1.getLast? = some .rxSettle := by
  decide

/-! ## Witnesses: for each statement with hypotheses, states and operands that meet them -/

theorem witness_DecodeEncodeAgree :
    (Instr.sendFrame 2 1 0 payloadA).WellFormed ∧ (Instr.sendFrame 2 1 0 payloadA).port = .record ∧
    (Instr.wireHeader hdrA).port = .input :=
  ⟨by simp only [Instr.WellFormed]; decide, rfl, rfl⟩

theorem witness_DecodedRecordIsItsEncoding : decode [0x10, 0x55, 0x12] = .ok (.rxByte 0x55, [0x12]) := rfl

/-- The first and last code of every reserved range. -/
theorem witness_InvalidRecordsRejected_codes : ∀ c ∈
    ([0x00, 0x08, 0x0F, 0x14, 0x1F, 0x23, 0x2F, 0x32, 0x3F, 0x42, 0x7E, 0x80, 0xFF] : List Byte),
    c.toNat = 0x00 ∨ (0x08 ≤ c.toNat ∧ c.toNat ≤ 0x0F) ∨ (0x14 ≤ c.toNat ∧ c.toNat ≤ 0x1F) ∨
      (0x23 ≤ c.toNat ∧ c.toNat ≤ 0x2F) ∨ (0x32 ≤ c.toNat ∧ c.toNat ≤ 0x3F) ∨
      (0x42 ≤ c.toNat ∧ c.toNat ≤ 0x7E) ∨ 0x80 ≤ c.toNat := by decide

theorem witness_InvalidRecordsRejected_operands :
    (2 : Byte) ≠ 0 ∧ (2 : Byte) ≠ 1 ∧ (0xFF : Byte) ≠ 0 ∧ (0xFF : Byte) ≠ 1 ∧
    (Instr.txHdrWrite (.count 20)).WellFormed ∧ (Instr.txHdrWrite (.count 20)).port = .record ∧
    5 < (encode (.txHdrWrite (.count 20))).length :=
  ⟨by decide, by decide, by decide, by decide, trivial, rfl, by decide⟩

theorem witness_StepRunsDecodedInstruction :
    let s : State := { base with trace := [0x10, 0x55, 0x40], held := [.txCksum] }
    s.trace ≠ [] ∧ decode s.trace = .ok (.rxByte 0x55, [0x40]) ∧ enabled (.rxByte 0x55) s = true ∧
    (∀ h ∈ s.held, sameOperation (.rxByte 0x55) h = false) ∧ s.rxIn = [] :=
  ⟨by decide, rfl, rfl, by decide, rfl⟩

theorem witness_WaitingMovesOldestFirst_held :
    let s : State := { base with held := [.txCksum] ++ .sendFrame 2 1 0 payloadA :: [.txDelayDone] }
    RecordMustWait s ∧ (∀ h ∈ [Instr.txCksum], enabled h s = false) ∧
    enabled (.sendFrame 2 1 0 payloadA) s = true := ⟨.inl rfl, by decide, rfl⟩

/-- A record that is not enabled, one that would overtake a held operation of its kind, and a byte behind waiting bytes. -/
theorem witness_WaitingMovesOldestFirst_record :
    RecordMustWait { base with trace := [0x04], held := [.sendFrame 2 1 0 payloadA] } ∧
    RecordMustWait { base with trace := [0x21, 0x00, 0x01], held := [.ckClear .tx] } ∧
    RecordMustWait { base with trace := [0x10, 0x55], rxIn := [0x13] } :=
  ⟨.inr ⟨.txDelayDone, [], rfl, .inl rfl⟩,
   .inr ⟨.ckAdd .tx 0x01, [], rfl, .inr (.inl ⟨.ckClear .tx, by decide, rfl⟩)⟩,
   .inr ⟨.rxByte 0x55, [], rfl, .inr (.inr ⟨⟨0x55, rfl⟩, by decide⟩)⟩⟩

theorem witness_WaitingMovesOldestFirst_wait :
    let s : State := { base with trace := [0x04], held := [.txCksum] }
    decode s.trace = .ok (.txDelayDone, []) ∧ (∀ h ∈ s.held, enabled h s = false) ∧ s.rxIn = [] :=
  ⟨rfl, by decide, rfl⟩

/-- Waiting bytes, behind no record and behind a record that is not enabled, for each kind of block: a start marker not
followed by a whole header, a trailer, and a byte that begins neither. -/
theorem witness_WaitingMovesOldestFirst_input :
    (let s : State := { base with trace := [0x04], rxIn := [0x55, 0xAA, 0x02] }
     RecordMustWait s ∧ s.held = [] ∧ rxReady s.rx = true ∧ decodeInput s.rxIn = .ok (.wireStart, [0x02])) ∧
    (∀ h rest, ([0x55, 0xAA, 0x02] : List Byte) ≠ encode (.wireHeader h) ++ rest) ∧
    decodeInput (bytesA.toList ++ [0x01]) = .ok (.wireHeader hdrA, [0x01]) ∧
    decodeInput [0xAD, 0xDE, 0x55] = .ok (.wireTrailer, [0x55]) ∧
    ((0x55 : Byte) = 0x55 → ([0x55] : List Byte).head? ≠ some 0xAA) ∧
    ((0xAD : Byte) = 0xAD → ([0xAD] : List Byte).head? ≠ some 0xDE) := by
  refine ⟨⟨.inr ⟨.txDelayDone, [], rfl, .inl rfl⟩, rfl, rfl, rfl⟩, fun h rest he => ?_, rfl, rfl, by decide, by decide⟩
  have := congrArg List.length he
  simp [encode] at this
  omega

theorem witness_WaitingMovesOldestFirst_internal :
    txStart.tx.state = .checksum ∧ txStart.trace = [] ∧ txStart.held = [] ∧ txStart.rxIn = [] ∧
    (let s := rxOf { scanning none with replay := [0xAA] }
     s.tx.state ≠ .checksum ∧ s.rx.state.takesBytes = true ∧ s.rx.replay ≠ []) ∧
    (let s := rxOf (trailing .complete payloadA [0xAD, 0xDE])
     s.tx.state ≠ .checksum ∧ s.rx.state.takesBytes = false) := by decide

theorem witness_NothingEnabledWaits :
    (let s : State := { base with held := [.txDelayDone] }
     s.trace = [] ∧ (∀ h ∈ s.held, enabled h s = false) ∧ s.rxIn = [] ∧ s.tx.state ≠ .checksum ∧
      s.rx.state.takesBytes = true ∧ s.rx.replay = []) ∧
    Quiescent base := ⟨by decide, by simp [Quiescent, base, State.reset, TxState.reset, RxState.reset]⟩

theorem witness_DisabledOperationsWait :
    (Instr.txCksum).WellFormed ∧ enabled .txCksum base = false ∧
    enabled (.rxByte 0x55) (rxOf (trailing .complete payloadA [0xAD, 0xDE])) = false := ⟨trivial, rfl, rfl⟩

theorem witness_OnlyListedRefusals :
    refusal (.txHdrWrite (.count 21)) (txA .writeHeader 0) = some .countExceedsRequest ∧
    refusal (.txTrlWrite (.count 3)) (txA .writeTrailer 4) = some .countExceedsRequest ∧
    refusal (.txChunkWrite (.count 4)) (txA .writeChunk 0) = some .countExceedsRequest := by decide

theorem witness_OnlyListedRefusals_step :
    let s : State := { base with trace := [0x7E] }
    s.trace ≠ [] ∧ decode s.trace = .error (.reservedCode 0x7E) := ⟨by decide, rfl⟩

theorem witness_ConfigurationAndCodesRefused :
    1 ≤ 1 ∧ 1 < 2 ^ 32 ∧ 1 ≤ 2 ^ 32 - 1 ∧ 2 ^ 32 - 1 < 2 ^ 32 ∧ 0 < 2 ^ 32 ∧ 2 ^ 32 ≤ 2 ^ 32 := by decide

theorem witness_ChecksumIgnoresOrder : payloadA.Perm [0xFF, 0x03, 0x02, 0x01] := by decide

theorem witness_OneByteChangeIsDetected :
    (0x03 : Byte) ≠ 0x04 ∧ (0xFE : Byte).toNat < 255 ∧ 0 < (0x01 : Byte).toNat := by decide

/-- `AccumulatorMicroOperations`: each accumulator of no frame, and of one. -/
theorem witness_AccumulatorMicroOperations :
    base.tx.state = .idle ∧ txStart.tx.state = .checksum ∧ (scanning none).state = .scanning ∧
    (window [0x55, 0xAA]).state = .headerPartial ∧
    ((txA .writeHeader 0).tx.state ≠ .idle ∧ (txA .writeHeader 0).tx.state ≠ .checksum) ∧
    ((gathering []).state ≠ .scanning ∧ (gathering []).state ≠ .headerPartial) := by decide

theorem witness_IncrementalChecksumAgrees :
    payloadA.Perm [0x02, 0x01, 0xFF, 0x03] ∧ base.tx.state = .idle ∧ base.rx.state = .scanning := by decide

/-- The bound is inclusive: a length equal to the maximum, and one above it. -/
theorem witness_HeaderRoundTrips :
    hdrA.dataLength ≤ 4 ∧ hdrA.dataLength > 3 ∧ hdrDecode 4 bytesA = .ok hdrA := ⟨by decide, by decide, rfl⟩

theorem witness_SendFrameCapturesOrIsHeld :
    payloadA.length < 2 ^ 32 ∧ base.tx.state = .idle ∧ (txA .drain 3).tx.state ≠ .idle := by decide

theorem witness_SendFrame_too_long : 2 ^ 32 ≤ (List.replicate (2 ^ 32) (0 : Byte)).length := by
  rw [List.length_replicate]

theorem witness_TxCksumBuildsHeader :
    txStart.tx.state = .checksum ∧ txStart.tx.width = some 2 ∧ txStart.tx.height = some 1 ∧
    txStart.tx.pixelFormat = some 0 ∧ txStart.tx.payload = some payloadA := by decide

/-- The counts at the edges: 0 and 19 below the length, 21 above it. -/
theorem witness_HeaderWriteResult :
    (txA .writeHeader 0).tx.state = .writeHeader ∧ (txA .writeHeader 0).tx.hdr = some bytesA ∧
    (0 : U32).toNat < 20 ∧ (19 : U32).toNat < 20 ∧ 20 < (21 : U32).toNat := by decide

theorem witness_DelayDoneResult :
    (txA .delay 0).tx.state = .delay ∧ (txA .delay 0).tx.payload = some payloadA ∧ payloadA ≠ [] ∧
    ({ (txA .delay 0).tx with payload := some [] } : TxState).payload = some [] := by decide

theorem witness_TrailerWriteResult :
    (txA .writeTrailer 4).tx.state = .writeTrailer ∧ (1 : U32).toNat < 2 ∧ 2 < (3 : U32).toNat := by decide

/-- A first chunk of 3 bytes and a last chunk of 1: counts 1 and 3, 1, and above them 4 and 2. -/
theorem witness_ChunkWriteResult :
    (txA .writeChunk 0).tx.state = .writeChunk ∧ (txA .writeChunk 3).tx.payload = some payloadA ∧
    (3 : U32).toNat < payloadA.length ∧ (chunk params3 payloadA 0).length = 3 ∧
    (chunk params3 payloadA 3).length = 1 := by decide

theorem witness_DrainResult :
    (txA .drain 3).tx.state = .drain ∧ (txA .drain 3).tx.payload = some payloadA ∧
    (txA .drain 4).tx.offset.toNat = payloadA.length ∧ (txA .drain 3).tx.offset.toNat ≠ payloadA.length := by decide

/-- `TxTransitions`, `OneResultPerAttempt`, `WireGrowsByOneRequest`: an operation that completes and is not `RESET`. -/
theorem witness_TxTransitions :
    (after (.txTrlWrite (.count 2)) (txA .writeTrailer 4)).isSome = true ∧
    Instr.txTrlWrite (.count 2) ≠ .reset := by decide

theorem witness_GoodFrameWireImage : base.tx.state = .idle ∧ payloadA.length < 2 ^ 32 := by decide

/-- Frame A in `WriteChunk`, whatever was sent before. -/
theorem txA_inv : TxInv (txA .writeChunk 0).tx :=
  ⟨rfl, 2, 1, 0, payloadA, rfl, rfl, rfl, rfl, by decide, by decide, Nat.zero_lt_succ 3⟩

/-- The last payload byte still to send. -/
theorem txA_inv_last : TxInv (txA .writeChunk 3).tx :=
  ⟨rfl, 2, 1, 0, payloadA, rfl, rfl, rfl, rfl, by decide, by decide, Nat.lt_succ_self 3⟩

/-- One short count of two, and the count that reaches the trailer. -/
theorem witness_ShortCountsLoseNothing :
    (TxInv (txA .writeChunk 0).tx ∧ (txA .writeChunk 0).tx.state = .writeChunk ∧
      (txA .writeChunk 0).tx.payload = some payloadA ∧ (∀ n ∈ ([2] : List U32), n ≠ 0) ∧
      (([2] : List U32).map BitVec.toNat).sum ≤ payloadA.length - (txA .writeChunk 0).tx.offset.toNat ∧
      (ran (([2] : List U32).flatMap fun n => [.txChunkWrite (.count n), .txDrain .done])
        (txA .writeChunk 0)).map (·.tx.state) = some .writeChunk) ∧
    (TxInv (txA .writeChunk 3).tx ∧
      (ran (([1] : List U32).flatMap fun n => [.txChunkWrite (.count n), .txDrain .done])
        (txA .writeChunk 3)).map (·.tx.state) = some .writeTrailer) :=
  ⟨⟨txA_inv, rfl, rfl, by simp, by simp [payloadA, txA], by decide⟩, txA_inv_last, by decide⟩

/-- Frame A right after `SEND_FRAME`. -/
theorem txStart_inv : TxInv txStart.tx := by
  simp [TxInv, txStart, TxState.reset, offsetOk, payloadA]

/-- What `after` answers is what `exec` answers. -/
theorem exec_of_after {i : Instr} {s : State} (h : (after i s).isSome = true) : ∃ t, exec i s = .next t := by
  unfold after at h
  split at h
  · exact ⟨_, ‹_›⟩
  · simp at h
  · simp at h

theorem txStart_run : TxRun [.txCksum] txStart := by
  obtain ⟨t, ht⟩ := exec_of_after (i := .txCksum) (s := txStart) (by decide)
  exact ⟨rfl, rfl, t, ht, trivial⟩

theorem witness_FrameEndsInBoundedSteps :
    TxInv txStart.tx ∧ txStart.tx.state = .checksum ∧ txStart.tx.payload = some payloadA ∧
    TxRun [.txCksum] txStart ∧ txStart.tx.state ≠ .idle :=
  ⟨txStart_inv, rfl, rfl, txStart_run, by decide⟩

theorem witness_ScanningTakesOneByte :
    (scanning none).state = .scanning ∧ (scanning none).replay = [] ∧ (scanning none).prevValid = false ∧
    (scanning (some 0x55)).prevValid = true ∧ (scanning (some 0x55)).prev = some 0x55 ∧
    ¬((0x55 : Byte) = 0x55 ∧ (0x55 : Byte) = 0xAA) := by decide

theorem witness_HeaderWindowStep :
    (window (bytesA.toList.take 18)).win.length ≠ 19 ∧
    (window (bytesA.toList.take 19)).state = .headerPartial ∧ (window (bytesA.toList.take 19)).replay = [] ∧
    (window (bytesA.toList.take 19)).win ++ [0x55] = bytesA.toList ∧ hdrDecode 9216 bytesA = .ok hdrA ∧
    hdrDecode 9216 (bytesA.set 19 0x56) = .error .malformedHeader ∧
    hdrDecode 3 bytesA = .error .payloadTooLarge :=
  ⟨by decide, rfl, rfl, by decide, rfl, rfl, rfl⟩

theorem witness_PayloadByteStep :
    (gathering [0x01]).state = .payloadPartial ∧ (gathering [0x01]).replay = [] ∧ (gathering [0x01]).hdr = some hdrA ∧
    (gathering [0x01]).payload.length + 1 ≠ hdrA.dataLength.toNat ∧
    (gathering [0x01, 0x02, 0x03]).payload.length + 1 = hdrA.dataLength.toNat := by decide

theorem witness_TrailerByteStep :
    (trailing .trailerPartial payloadA []).state = .trailerPartial ∧
    (trailing .trailerPartial payloadA []).replay = [] ∧ (trailing .trailerPartial payloadA []).hdr = some hdrA ∧
    (trailing .trailerPartial payloadA []).trl = [] ∧ (trailing .trailerPartial payloadA [0xAD]).trl = [0xAD] ∧
    ¬((0xAD : Byte) = 0xAD ∧ (0xDF : Byte) = 0xDE) := by decide

theorem witness_ReplayTakesQueueHead :
    let rx : RxState := { scanning none with replay := [0xAA, 0x11] }
    rx.replay = 0xAA :: [0x11] ∧ rx.state = .scanning ∧ rx.prevValid = false ∧
    (scanning (some 0x55)).prevValid = true ∧ (scanning (some 0x55)).prev = some 0x55 ∧
    (window [0x55, 0xAA]).state = .headerPartial ∧ (window [0x55, 0xAA]).win.length ≠ 19 := by decide

theorem witness_SettleCompleteResult :
    let good := trailing .complete payloadA [0xAD, 0xDE]
    let bad := trailing .complete [0x01, 0x02, 0x04, 0xFF] [0xAD, 0xDE]
    good.state = .complete ∧ good.hdr = some hdrA ∧ good.sum = hdrA.checksum ∧ bad.hdr = some hdrA ∧
    bad.sum ≠ hdrA.checksum := by decide

/-- RX with a failure recorded. -/
def failed : RxState := failRx (.checksumMismatch 0 4 0x105 0x106) (trailing .complete payloadA [0xAD, 0xDE])

theorem witness_SettleInvalidResult :
    failed.state = .invalid ∧ failed.err = some (.checksumMismatch 0 4 0x105 0x106) := by decide

theorem witness_TimeoutResult :
    (window [0x55, 0xAA]).state = .headerPartial ∧ (window [0x55, 0xAA]).replay = [] ∧
    (gathering []).state = .payloadPartial ∧ (gathering []).replay = [] ∧ (gathering []).hdr = some hdrA ∧
    (trailing .trailerPartial payloadA []).state = .trailerPartial ∧
    (trailing .trailerPartial payloadA []).hdr = some hdrA ∧ (scanning none).state = .scanning := by decide

theorem witness_BlockIsItsBytes :
    inputBytes (.wireHeader hdrA) = some bytesA.toList ∧ base.rxIn = [] := by decide

/-- A receiver that scans, with any byte scanned last, meets its invariants. -/
theorem scanning_inv (prev : Option Byte) : RxInv params3 (scanning prev) := by
  simp [RxInv, scanning, RxState.reset]

theorem trailing_inv : RxInv params3 (trailing .trailerPartial payloadA []) := by
  refine ⟨by decide, by decide, by decide, by decide, by decide, by decide, by decide, hdrA, by decide, by decide, by decide⟩

theorem gathering_inv : RxInv params3 (gathering [0x01]) := by
  refine ⟨by decide, by decide, by decide, by decide, by decide, by decide, by decide, hdrA, by decide, by decide, by decide⟩

theorem witness_WireFormatsAdvanceReceiver :
    RxInv params3 (scanning (some 0x13)) ∧ (scanning (some 0x13)).state = .scanning ∧
    (scanning (some 0x13)).replay = [] ∧ hdrA.dataLength ≤ params3.maxPayloadLen ∧
    RxInv params3 (trailing .trailerPartial payloadA []) ∧
    (trailing .trailerPartial payloadA []).state = .trailerPartial ∧
    (trailing .trailerPartial payloadA []).trl = [] :=
  ⟨scanning_inv _, rfl, rfl, by decide, trailing_inv, rfl, rfl⟩

/-- `RxTransitions`, `OneEventPerSettle`: an operation that completes, is no `RESET` and has a record. -/
theorem witness_RxTransitions :
    (after .rxSettle (rxOf failed)).isSome = true ∧ Instr.rxSettle ≠ .reset ∧
    Instr.rxSettle.port = .record := by decide

theorem witness_Loopback :
    RxInv params3 (scanning (some 0x55)) ∧ (scanning (some 0x55)).state = .scanning ∧
    (scanning (some 0x55)).replay = [] ∧ hdrA.dataLength.toNat = payloadA.length ∧
    hdrA.dataLength ≤ params3.maxPayloadLen ∧ hdrA.checksum = cksum payloadA :=
  ⟨scanning_inv _, rfl, rfl, by decide, by decide, by decide⟩

theorem witness_OneByteCorruptionIsReported :
    RxInv params3 (scanning none) ∧ (scanning none).state = .scanning ∧ (scanning none).replay = [] ∧
    (0x03 : Byte) ≠ 0x04 ∧ hdrA.dataLength.toNat = ([0x01, 0x02] ++ 0x03 :: [0xFF] : List Byte).length ∧
    hdrA.dataLength ≤ params3.maxPayloadLen ∧ hdrA.checksum = cksum ([0x01, 0x02] ++ 0x03 :: [0xFF]) :=
  ⟨scanning_inv _, rfl, rfl, by decide, by decide, by decide, by decide⟩

theorem witness_TruncatedFrameIsReported :
    RxInv params3 (gathering [0x01]) ∧ (gathering [0x01]).state.partialFrame = true ∧ (gathering [0x01]).replay = [] :=
  ⟨gathering_inv, rfl, rfl⟩

theorem witness_ResetStateValues : (txA .delay 0).held = [] := rfl

/-- `AgentsShareNothing`: one completed operation of each kind. -/
theorem witness_AgentsShareNothing :
    (after (.txHdrWrite (.count 19)) (txA .writeHeader 0)).isSome = true ∧ (Instr.txHdrWrite (.count 19)).isTx = true ∧
    (after .rxSettle (rxOf failed)).isSome = true ∧ Instr.rxSettle.isRx = true ∧
    (after .rxStatus base).isSome = true ∧ Instr.rxStatus.isRead = true := by decide

/-- Two states that differ in the other agent alone. -/
theorem witness_AgentsDoNotObserveEachOther :
    let s := txA .writeTrailer 4
    let s' : State := { s with rx := failed, rxEv := [.frameError (.checksumMismatch 0 4 0x105 0x106)] }
    (Instr.txTrlWrite (.count 2)).isTx = true ∧ s.tx = s'.tx ∧ s.params = s'.params ∧ s.draws = s'.draws ∧
    (after (.txTrlWrite (.count 2)) s).isSome = true ∧
    (let r := rxOf failed
     let r' : State := { r with tx := s.tx }
     Instr.rxSettle.isRx = true ∧ r.rx = r'.rx ∧ r.params = r'.params ∧
     (after .rxSettle r).isSome = true) := by decide

theorem witness_InterleavingDoesNotMatter :
    let s : State := { txA .writeTrailer 4 with rx := failed }
    (Instr.txTrlWrite (.count 2)).isTx = true ∧ Instr.rxSettle.isRx = true ∧
    enabled (.txTrlWrite (.count 2)) s = true ∧ enabled .rxSettle s = true ∧
    (after (.txTrlWrite (.count 2)) s).isSome = true ∧ (after .rxSettle s).isSome = true := by decide

/-- `TxInvariantKept` and `RxInvariantKept`: a state in mid-frame from which a step answers a next state. -/
theorem witness_invariants_kept :
    let s : State := { txA .writeChunk 0 with rx := gathering [0x01], trace := [0x05, 0x00, 0x03, 0x00, 0x00, 0x00] }
    TxInv s.tx ∧ RxInv s.params s.rx ∧
    (stepped s).map (·.tx.state) = some .drain := ⟨txA_inv, gathering_inv, by decide⟩

theorem witness_AccumulatorsHoldChecksums :
    let s : State := { txA .writeChunk 0 with rx := gathering [0x01], trace := [0x10, 0x02] }
    SumInv s ∧ (after (.rxByte 0x02) s).isSome = true ∧ (stepped s).map (·.rx.sum) = some 3 := by
  refine ⟨⟨fun p hp => ?_, rfl⟩, by decide, by decide⟩
  cases hp
  decide

theorem witness_NoOperationFaults :
    BlockInv { txA .writeChunk 0 with rx := gathering [0x01] } := ⟨txA_inv, gathering_inv⟩

end Sys2Proof.Tests
end

section
/-! PROOFS. Which block of bytes the input decoder takes first (spec/30_encoding.md R111, R113, R115; log 7), and the schedule:
which operation moves next (logs 1, 2, 3 and 24). -/

namespace Sys2Proof

/-! ## The blocks on `rx_in` -/

/-- A window with both markers is the encoding of its fields: no byte of it is dropped (R117). -/
theorem hdrBytes_hdrFields {w : Window} (h : markersGood w = true) : hdrBytes (hdrFields w) = w.toList := by
  obtain ⟨hs, he⟩ := (markersGood_iff w).mp h
  rw [hdrBytes_eq, ← hs, ← he, window_eq]
  simp [hdrFields, u16le, u32le, le16_u16of, le32_u32of]

/-- A byte sequence is read as a wire format exactly where it is that format's bytes. -/
theorem wireFormat?_eq_some {s : List Byte} {i : Instr} :
    wireFormat? s = some i ↔ i.port = .input ∧ s = encode i := by
  constructor
  · intro h
    unfold wireFormat? at h
    split at h
    · cases h; exact ⟨rfl, ‹_›⟩
    · split at h
      · cases h; exact ⟨rfl, ‹_›⟩
      · split at h
        · rename_i w hw
          split at h
          · rename_i hm
            cases h
            exact ⟨rfl, (window?_some hw).trans (hdrBytes_hdrFields hm).symm⟩
          · simp at h
        · simp at h
  · rintro ⟨hp, rfl⟩
    cases i with
    | wireHeader h =>
      have hs : hdrBytes h ≠ le16 startMarker := fun e => by simpa using congrArg List.length e
      have ht : hdrBytes h ≠ le16 trailerMarker := fun e => by simpa using congrArg List.length e
      rw [encode, wireFormat?, if_neg hs, if_neg ht, ← hdrEncode_toList, window?_toList]
      simp [markersGood_hdrEncode, hdrFields_hdrEncode]
    | wireTrailer => rfl
    | wireStart => rfl
    | _ => simp [Instr.port] at hp

/-- `decodeInput` tries both lengths that a wire format has. -/
theorem encode_length_of_input {i : Instr} (hp : i.port = .input) :
    (encode i).length = hdrLen ∨ (encode i).length = trlLen := by
  cases i with
  | wireHeader h => exact .inl rfl
  | wireTrailer => exact .inr rfl
  | wireStart => exact .inr rfl
  | _ => simp [Instr.port] at hp

/-- A whole header is taken before the start marker it begins with. -/
theorem decodeInput_wireHeader (h : Header) (r : List Byte) :
    decodeInput (encode (.wireHeader h) ++ r) = .ok (.wireHeader h, r) := by
  have ht : (hdrBytes h ++ r).take hdrLen = hdrBytes h := List.take_left' rfl
  have hd : (hdrBytes h ++ r).drop hdrLen = r := List.drop_left' rfl
  have hf : wireFormat? ((hdrBytes h ++ r).take hdrLen) = some (.wireHeader h) :=
    wireFormat?_eq_some.mpr ⟨rfl, ht⟩
  obtain ⟨b, s, hs⟩ : ∃ b s, hdrBytes h ++ r = b :: s := ⟨_, _, rfl⟩
  rw [hs] at hf hd
  rw [encode, hs, decodeInput, hf, ← hd]

/-- The first block is a wire format that the bytes begin with, or one byte where they begin with none. -/
theorem decodeInput_cons (b : Byte) (r : List Byte) :
    (∃ i rest, i.port = .input ∧ b :: r = encode i ++ rest ∧ decodeInput (b :: r) = .ok (i, rest)) ∨
    ((∀ i rest, i.port = .input → b :: r ≠ encode i ++ rest) ∧ decodeInput (b :: r) = .ok (.rxByte b, r)) := by
  have begins {i : Instr} {n : Nat} (h : wireFormat? ((b :: r).take n) = some i) :
      i.port = .input ∧ b :: r = encode i ++ (b :: r).drop n := by
    obtain ⟨hp, he⟩ := wireFormat?_eq_some.mp h
    exact ⟨hp, by rw [← he, List.take_append_drop]⟩
  rw [decodeInput]
  cases h20 : wireFormat? ((b :: r).take hdrLen) with
  | some i =>
    obtain ⟨hp, he⟩ := begins h20
    exact .inl ⟨i, _, hp, he, rfl⟩
  | none =>
    cases h2 : wireFormat? ((b :: r).take trlLen) with
    | some i =>
      obtain ⟨hp, he⟩ := begins h2
      exact .inl ⟨i, _, hp, he, rfl⟩
    | none =>
      refine .inr ⟨fun i rest hp he => ?_, rfl⟩
      have hw : wireFormat? ((b :: r).take (encode i).length) = some i :=
        wireFormat?_eq_some.mpr ⟨hp, by rw [he, List.take_left]⟩
      rcases encode_length_of_input hp with hl | hl
      · exact absurd ((hl ▸ hw).symm.trans h20) (by simp)
      · exact absurd ((hl ▸ hw).symm.trans h2) (by simp)

theorem encode_wireHeader_cons (h : Header) : ∃ t, encode (.wireHeader h) = 0x55 :: 0xAA :: t := ⟨_, rfl⟩

/-- Bytes that begin with a start marker are that marker, unless they begin with a whole header. -/
theorem decodeInput_startMarker {r : List Byte}
    (hn : ∀ h rest, 0x55 :: 0xAA :: r ≠ encode (.wireHeader h) ++ rest) :
    decodeInput (0x55 :: 0xAA :: r) = .ok (.wireStart, r) := by
  rcases decodeInput_cons 0x55 (0xAA :: r) with ⟨i, rest, hp, he, hd⟩ | ⟨hno, -⟩
  · cases i with
    | wireHeader h => exact absurd he (hn h rest)
    | wireTrailer => simp [encode, le16, trailerMarker] at he
    | wireStart =>
      obtain rfl : r = rest := by simpa [encode, le16, startMarker] using he
      exact hd
    | _ => simp [Instr.port] at hp
  · exact absurd rfl (hno .wireStart r rfl)

theorem decodeInput_trailerMarker (r : List Byte) : decodeInput (0xAD :: 0xDE :: r) = .ok (.wireTrailer, r) := by
  rcases decodeInput_cons 0xAD (0xDE :: r) with ⟨i, rest, hp, he, hd⟩ | ⟨hno, -⟩
  · cases i with
    | wireHeader h =>
      obtain ⟨t, ht⟩ := encode_wireHeader_cons h
      simp [ht] at he
    | wireTrailer =>
      obtain rfl : r = rest := by simpa [encode, le16, trailerMarker] using he
      exact hd
    | wireStart => simp [encode, le16, startMarker] at he
    | _ => simp [Instr.port] at hp
  · exact absurd rfl (hno .wireTrailer r rfl)

/-- A byte that begins no marker is a block of its own. -/
theorem decodeInput_oneByte {b : Byte} {r : List Byte} (hs : b = 0x55 → r.head? ≠ some 0xAA)
    (ht : b = 0xAD → r.head? ≠ some 0xDE) : decodeInput (b :: r) = .ok (.rxByte b, r) := by
  rcases decodeInput_cons b r with ⟨i, rest, hp, he, -⟩ | ⟨-, hd⟩
  · cases i with
    | wireHeader h =>
      obtain ⟨t, hh⟩ := encode_wireHeader_cons h
      obtain ⟨rfl, rfl⟩ : b = 0x55 ∧ r = 0xAA :: (t ++ rest) := by simpa [hh] using he
      exact absurd rfl (hs rfl)
    | wireTrailer =>
      obtain ⟨rfl, rfl⟩ : b = 0xAD ∧ r = 0xDE :: rest := by simpa [encode, le16, trailerMarker] using he
      exact absurd rfl (ht rfl)
    | wireStart =>
      obtain ⟨rfl, rfl⟩ : b = 0x55 ∧ r = 0xAA :: rest := by simpa [encode, le16, startMarker] using he
      exact absurd rfl (hs rfl)
    | _ => simp [Instr.port] at hp
  · exact hd

end Sys2Proof

namespace Sys2Proof.Machine

/-! ## What moves next -/

theorem step_of_nextOp {s s' : State} {i : Instr} (h : nextOp s = .ok (some (i, s'))) : step s = exec i s' := by
  rw [step, h]

/-- With a held operation enabled, the oldest such is lifted out of the hold. -/
theorem lift_held {s : State} {i : Instr} {before after : List Instr} (hh : s.held = before ++ i :: after)
    (hb : ∀ h ∈ before, enabled h s = false) (hi : enabled i s = true) :
    lift s = some (i, { s with held := before ++ after }) := by
  rw [lift, hh, firstEnabled_append hi hb]

/-- With no held operation enabled, what is lifted comes from `rx_in`. -/
theorem lift_of_held_disabled {s : State} (hh : ∀ h ∈ s.held, enabled h s = false) : lift s = liftInput s := by
  rw [lift, firstEnabled_of_disabled hh]

theorem liftInput_block {s : State} {i : Instr} {rest : List Byte} (hr : rxReady s.rx = true)
    (hd : decodeInput s.rxIn = .ok (i, rest)) : liftInput s = some (i, { s with rxIn := rest }) := by
  rw [liftInput, if_pos hr, hd]

theorem liftInput_none {s : State} (h : s.rxIn = [] ∨ rxReady s.rx = false) : liftInput s = none := by
  rcases h with h | h <;> simp [liftInput, h, decodeInput]

/-- With nothing that waits able to move, nothing is lifted. -/
theorem lift_none {s : State} (hh : ∀ h ∈ s.held, enabled h s = false)
    (hin : s.rxIn = [] ∨ rxReady s.rx = false) : lift s = none :=
  (lift_of_held_disabled hh).trans (liftInput_none hin)

/-- With nothing to lift, the next record is taken, whether it is takeable or not. -/
theorem nextOp_record {s : State} {j : Instr} {rest : List Byte} (hd : decode s.trace = .ok (j, rest))
    (hl : lift s = none) : nextOp s = .ok (some (j, { s with trace := rest })) := by
  cases ht : s.trace with
  | nil => simp [ht, decode] at hd
  | cons b r =>
    rw [ht] at hd
    simp [nextOp, ht, hd, hl]

theorem nextOp_invalid {s : State} {e : DecodeError} (ht : s.trace ≠ []) (hd : decode s.trace = .error e) :
    nextOp s = .error e := by
  cases hs : s.trace with
  | nil => exact absurd hs ht
  | cons b r =>
    rw [hs] at hd
    simp [nextOp, hs, hd]

/-- With no record left and nothing to lift, an internal step moves by itself. -/
theorem nextOp_internal {s : State} (ht : s.trace = []) (hl : lift s = none) : nextOp s = .ok (internal s) := by
  simp [nextOp, ht, hl]

theorem internal_txCksum {s : State} (h : s.tx.state = .checksum) : internal s = some (.txCksum, s) := by
  simp [internal, enabled, h]

theorem internal_rxReplay {s : State} (hc : s.tx.state ≠ .checksum) (hb : s.rx.state.takesBytes = true)
    (hr : s.rx.replay ≠ []) : internal s = some (.rxReplay, s) := by
  simp [internal, enabled, hc, hb, hr]

theorem internal_rxSettle {s : State} (hc : s.tx.state ≠ .checksum) (hb : s.rx.state.takesBytes = false) :
    internal s = some (.rxSettle, s) := by
  simp [internal, enabled, hc, hb]

/-- Settles O6: each clause names the operation that `nextOp` chooses, or the block that `decodeInput` takes first. -/
theorem waitingMovesOldestFirst : Obligations.WaitingMovesOldestFirst := by
  refine ⟨fun s i before after hm hh hb hi => ?held, fun s i rest hm hh hr hd => ?input, decodeInput_wireHeader,
    fun r => decodeInput_startMarker, decodeInput_trailerMarker, fun b r => decodeInput_oneByte,
    fun s j rest hd hh hin => ?record, fun s ht hh hin => ?internal⟩
  case held => exact step_of_nextOp (nextOp_of_mustWait hm (lift_held hh hb hi))
  case input =>
    exact step_of_nextOp (nextOp_of_mustWait hm ((lift_of_held_disabled hh).trans (liftInput_block hr hd)))
  case record => exact step_of_nextOp (nextOp_record hd (lift_none hh hin))
  case internal =>
    have hn : nextOp s = .ok (internal s) := nextOp_internal ht (lift_none hh hin)
    exact ⟨fun hc => step_of_nextOp (hn.trans (congrArg _ (internal_txCksum hc))),
      fun hc hb hr => step_of_nextOp (hn.trans (congrArg _ (internal_rxReplay hc hb hr))),
      fun hc hb => step_of_nextOp (hn.trans (congrArg _ (internal_rxSettle hc hb)))⟩

end Sys2Proof.Machine
end

section
/-! PROOFS. An operation that is not enabled waits (spec/00_scope.md R20; logs 2, 3 and 13). -/

namespace Sys2Proof.Machine

/-- Every meaning has the common form: an effect behind the guard of its own operation. -/
theorem exec_guarded {i : Instr} (s : State) (hw : i.WellFormed) : ∃ k, exec i s = guarded i s k := by
  cases i with
  | sendFrame w h f p => exact ⟨_, if_pos hw⟩
  | _ => exact ⟨_, rfl⟩

theorem exec_of_disabled {i : Instr} {s : State} (hw : i.WellFormed) (he : enabled i s = false) :
    exec i s = .next (wait i s) := by
  obtain ⟨k, hk⟩ := exec_guarded s hw
  rw [hk, guarded_of_disabled he]

/-- Settles O8: the operation is behind its guard, and `wait` is the state that the statement writes out. -/
theorem disabledOperationsWait : Obligations.DisabledOperationsWait := by
  intro i s hw he
  rw [exec_of_disabled hw he, wait]
  cases inputBytes i <;> rfl

end Sys2Proof.Machine
end

section
/-! PROOFS. What is refused (spec/20_memory.md R88; spec/43_frame_sender.md R209; logs 14 to 16). -/

namespace Sys2Proof.Machine

theorem step_invalid {s : State} {e : DecodeError} (h : nextOp s = .error e) : step s = .refused (.invalidRecord e) := by
  rw [step, h]

theorem liftRx_not_refused (s : State) (x : Except Fault RxState) (r : Refusal) : liftRx s x ≠ .refused r := by
  cases x <;> simp [liftRx]

theorem feed_not_refused (r : Refusal) : ∀ (bs : List Byte) (s : State), feed bs s ≠ .refused r
  | [], s => by simp [feed]
  | b :: bs, s => by
    unfold feed
    split
    · split
      · exact feed_not_refused r bs _
      · simp
      · rename_i q hq
        exact absurd hq (liftRx_not_refused _ _ q)
    · simp

theorem settleComplete_not_refused (s : State) (r : Refusal) : settleComplete s ≠ .refused r := by
  unfold settleComplete
  split
  · split <;> simp
  · simp

theorem settleInvalid_not_refused (s : State) (r : Refusal) : settleInvalid s ≠ .refused r := by
  unfold settleInvalid
  split <;> simp

theorem execSendFrame_refused {w h f : U16} {p : List Byte} {s : State} {r : Refusal}
    (hr : execSendFrame w h f p s = .refused r) : r = .payloadTooLong ∧ 2 ^ 32 ≤ p.length := by
  unfold execSendFrame at hr
  split at hr
  · simpa using (guarded_refused hr).2
  · rename_i hl
    exact ⟨by simpa using hr.symm, Nat.not_lt.mp hl⟩

theorem execTxCksum_not_refused (s : State) (r : Refusal) : execTxCksum s ≠ .refused r := by
  intro hr
  obtain ⟨w, -, hr⟩ := readField_refused (guarded_refused hr).2
  obtain ⟨h, -, hr⟩ := readField_refused hr
  obtain ⟨f, -, hr⟩ := readField_refused hr
  obtain ⟨p, -, hr⟩ := readField_refused hr
  simp at hr

theorem execTxHdrWrite_refused {w : WriteResp} {s : State} {r : Refusal} (hr : execTxHdrWrite w s = .refused r) :
    r = .countExceedsRequest ∧ ∃ n, w = .count n ∧ 20 < n.toNat := by
  obtain ⟨hdr, -, hr⟩ := readField_refused (guarded_refused hr).2
  simpa using wireWrite_refused (fun t => by split <;> simp) hr

theorem execTxDelayDone_not_refused (s : State) (r : Refusal) : execTxDelayDone s ≠ .refused r := by
  intro hr
  obtain ⟨p, -, hr⟩ := readField_refused (guarded_refused hr).2
  simp at hr

theorem execTxChunkWrite_refused {w : WriteResp} {s : State} {r : Refusal} (hr : execTxChunkWrite w s = .refused r) :
    r = .countExceedsRequest ∧ ∃ n, w = .count n ∧
      ∃ p, s.tx.payload = some p ∧ (chunk s.params p s.tx.offset).length < n.toNat := by
  obtain ⟨p, hp, hr⟩ := readField_refused (guarded_refused hr).2
  refine (wireWrite_refused (fun t => ?_) hr).imp_right fun ⟨n, hn, hl⟩ => ⟨n, hn, p, hp, hl⟩
  split
  · simp
  · split <;> simp

theorem execTxDrain_not_refused (w : DrainResp) (s : State) (r : Refusal) : execTxDrain w s ≠ .refused r := by
  intro hr
  have hr := (guarded_refused hr).2
  cases w with
  | timeout => simp at hr
  | done =>
    obtain ⟨p, -, hr⟩ := readField_refused hr
    simp at hr

theorem execTxTrlWrite_refused {w : WriteResp} {s : State} {r : Refusal} (hr : execTxTrlWrite w s = .refused r) :
    r = .countExceedsRequest ∧ ∃ n, w = .count n ∧ 2 < n.toNat := by
  simpa using wireWrite_refused (fun t => by split <;> simp) (guarded_refused hr).2

theorem execRxTimeout_not_refused (s : State) (r : Refusal) : execRxTimeout s ≠ .refused r := by
  intro hr
  have hr := (guarded_refused hr).2
  split at hr
  · exact liftRx_not_refused _ _ _ hr
  · simp at hr

/-- The refusals are the TX agent's: no other operation refuses. -/
theorem exec_not_refused_of_not_tx {i : Instr} (hi : i.isTx = false) (s : State) (r : Refusal) :
    exec i s ≠ .refused r := by
  intro hr
  cases i with
  | sendFrame | txCksum | txHdrWrite | txDelayDone | txChunkWrite | txDrain | txTrlWrite => simp [Instr.isTx] at hi
  | rxByte b => exact liftRx_not_refused _ _ _ (guarded_refused hr).2
  | rxReplay =>
    have hr := (guarded_refused hr).2
    split at hr
    · exact liftRx_not_refused _ _ _ hr
    · simp at hr
  | rxSettle =>
    have hr := (guarded_refused hr).2
    split at hr
    · exact settleComplete_not_refused _ _ hr
    · exact settleInvalid_not_refused _ _ hr
  | rxTimeout => exact execRxTimeout_not_refused s r hr
  | ckClear u => simpa using (guarded_refused hr).2
  | ckAdd u b => simpa using (guarded_refused hr).2
  | cksum | hdrEncode | hdrDecode | txStatus | rxStatus | reset => simp [exec] at hr
  | wireHeader h => exact feed_not_refused _ _ _ (guarded_refused hr).2
  | wireTrailer => exact feed_not_refused _ _ _ (guarded_refused hr).2
  | wireStart => exact feed_not_refused _ _ _ (guarded_refused hr).2

/-- Settles O9: an invalid record stops `nextOp`; of the operations only `SEND_FRAME` and the three writes refuse. -/
theorem onlyListedRefusals : Obligations.OnlyListedRefusals := by
  refine ⟨fun s e ht hd => step_invalid (nextOp_invalid ht hd), fun i s r hr => ?_⟩
  cases i with
  | sendFrame w h f p =>
    obtain ⟨rfl, hl⟩ := execSendFrame_refused hr
    exact .inl ⟨rfl, w, h, f, p, rfl, hl⟩
  | txHdrWrite w =>
    obtain ⟨rfl, n, rfl, hl⟩ := execTxHdrWrite_refused hr
    exact .inr ⟨rfl, n, .inl ⟨rfl, hl⟩⟩
  | txTrlWrite w =>
    obtain ⟨rfl, n, rfl, hl⟩ := execTxTrlWrite_refused hr
    exact .inr ⟨rfl, n, .inr (.inl ⟨rfl, hl⟩)⟩
  | txChunkWrite w =>
    obtain ⟨rfl, n, rfl, hp⟩ := execTxChunkWrite_refused hr
    exact .inr ⟨rfl, n, .inr (.inr ⟨rfl, hp⟩)⟩
  | txCksum => exact absurd hr (execTxCksum_not_refused s r)
  | txDelayDone => exact absurd hr (execTxDelayDone_not_refused s r)
  | txDrain w => exact absurd hr (execTxDrain_not_refused w s r)
  | _ => exact absurd hr (exec_not_refused_of_not_tx rfl s r)

end Sys2Proof.Machine
end

section
/-! PROOFS. Which configurations are legal and which codes name a state (spec/00_scope.md R9; spec/10_state.md R32, R36;
spec/42_chunked_transmitter.md R188). -/

namespace Sys2Proof.Machine

theorem instantiate_outOfRange {c m : Nat} (d y r : Nat) (ports : List Nat) (line : EventSignal)
    (h : 2 ^ 32 ≤ c ∨ 2 ^ 32 ≤ m) : instantiate c m d y r ports line = .error .parameterOutOfRange := if_pos h

theorem instantiate_zeroChunk {m : Nat} (d y r : Nat) (ports : List Nat) (line : EventSignal) (hm : m < 2 ^ 32) :
    instantiate 0 m d y r ports line = .error .zeroChunkSize := by
  rw [instantiate, if_neg (by omega)]
  rfl

/-- Sizes within R9's legal values are kept as they are. -/
theorem instantiate_legal {c m : Nat} (d y r : Nat) (ports : List Nat) (line : EventSignal) (h1 : 1 ≤ c)
    (hc : c < 2 ^ 32) (hm : m < 2 ^ 32) :
    ∃ p, instantiate c m d y r ports line = .ok p ∧ p.maxChunkSize.toNat = c ∧ p.maxPayloadLen.toNat = m := by
  have toNat_eq {n : Nat} (hn : n < 2 ^ 32) : (BitVec.ofNat 32 n).toNat = n := by
    rw [BitVec.toNat_ofNat, Nat.mod_eq_of_lt hn]
  have hz : BitVec.ofNat 32 c ≠ 0 := fun h => by
    have h0 : c = 0 := (toNat_eq hc).symm.trans (congrArg BitVec.toNat h)
    omega
  exact ⟨⟨BitVec.ofNat 32 c, BitVec.ofNat 32 m, d, y, r, ports, line, hz⟩,
    by rw [instantiate, if_neg (by omega), dif_pos hz], toNat_eq hc, toNat_eq hm⟩

theorem TxSt.ofCode_code (st : TxSt) : TxSt.ofCode st.code = .ok st := by cases st <;> rfl

theorem RxSt.ofCode_code (st : RxSt) : RxSt.ofCode st.code = .ok st := by cases st <;> rfl

/-- Settles O10: the three cases of `instantiate` are disjoint on the sizes, and the codes are those of the table. -/
theorem configurationAndCodesRefused : Obligations.ConfigurationAndCodesRefused :=
  ⟨fun _ _ d y r ports line h1 hc hm => instantiate_legal d y r ports line h1 hc hm,
    fun _ d y r ports line hm => instantiate_zeroChunk d y r ports line hm,
    fun _ _ d y r ports line h => instantiate_outOfRange d y r ports line h,
    TxSt.ofCode_code, rfl, RxSt.ofCode_code, rfl, rfl⟩

end Sys2Proof.Machine
end

section
/-! PROOFS. The receiver's byte function keeps the invariants of RX (spec/10_state.md R37, R39; log 25), whether its byte comes
from `rx_in` (spec/44_frame_receiver.md R240) or from the replay queue (R241), and reads no absent field (R31; log 11). -/

namespace Sys2Proof.Machine

/-! ## Which fields are there (R31, R37) -/

theorem RxInv.prev_some {p : Params} {rx : RxState} (hi : RxInv p rx) (hv : rx.prevValid = true) :
    ∃ q, rx.prev = some q := by
  obtain ⟨-, hp, -⟩ := hi
  exact Option.isSome_iff_exists.mp (hp.symm.trans hv)

/-- An accepted header is there until its frame is settled. -/
theorem RxInv.hdr_some {p : Params} {rx : RxState} (hi : RxInv p rx)
    (hs : rx.state = .payloadPartial ∨ rx.state = .trailerPartial ∨ rx.state = .complete) :
    ∃ h, rx.hdr = some h := by
  obtain ⟨-, -, hm⟩ := hi
  rcases hs with hs | hs | hs <;>
  · simp only [hs] at hm
    obtain ⟨-, -, -, -, -, h, hh, -⟩ := hm
    exact ⟨h, hh⟩

theorem RxInv.err_some {p : Params} {rx : RxState} (hi : RxInv p rx) (hs : rx.state = .invalid) :
    ∃ e, rx.err = some e := by
  obtain ⟨-, -, hm⟩ := hi
  simp only [hs] at hm
  exact hm.2

/-! ## One byte: no absent field is read -/

theorem need_no_fault {α β : Type} {f : Fault} {x : Field} {v : Option α} {k : α → Except Fault β}
    (hv : ∃ a, v = some a) (hk : ∀ a, k a ≠ .error f) : need x v k ≠ .error f := by
  obtain ⟨a, rfl⟩ := hv
  exact hk a

theorem rxConsume_no_fault {p : Params} {b : Byte} {rx : RxState} (hp : rx.prevValid = true → ∃ q, rx.prev = some q)
    (hh : rx.state = .payloadPartial ∨ rx.state = .trailerPartial → ∃ h, rx.hdr = some h) (f : Fault) :
    rxConsume p b rx ≠ .error f := by
  unfold rxConsume
  split <;> rename_i hs
  · unfold scanStep
    split
    · exact need_no_fault (hp ‹_›) fun q => by split <;> simp
    · simp
  · simp
  · exact need_no_fault (hh (.inl hs)) fun h => by split <;> simp
  · unfold trailerStep
    split
    · simp
    · split
      · simp
      · exact need_no_fault (hh (.inr hs)) fun h => by simp
  · simp
  · simp

/-! ## One byte: the invariants are kept

In each lemma `rx` is the receiver before the byte is handed to `rx_consume`; the handing over leaves the replay queue
`r`, shorter by one where it was not empty, and the input log `l`. -/

section
variable {p : Params} {b : Byte} {rx rx' : RxState} {r l : List Byte}

theorem scanStep_keeps_rxInv (hi : RxInv p rx) (hs : rx.state = .scanning) (hr : r.length = rx.replay.length - 1)
    (h : scanStep b { rx with replay := r, input := l } = .ok rx') : RxInv p rx' := by
  obtain ⟨hlen, -, hm⟩ := hi
  simp only [hs, hdrLen] at hlen hm
  obtain ⟨hw, hp, ht, hh, he, hfull⟩ := hm
  rcases scanStep_ok h with ⟨hv, -, -, rfl⟩ | rfl
  · have hroom : rx.replay.length + 1 ≠ 20 := fun hf => by simp [hfull hf] at hv
    have hl : 2 + r.length < hdrLen := by simp only [hdrLen]; omega
    exact ⟨by simp only [openWindow_replay]; omega, rfl, ⟨[], rfl⟩, hl, rfl, hp, ht, hh, he⟩
  · simp only [RxInv, RxState.remember, hs, hdrLen]
    exact ⟨by omega, rfl, hw, hp, ht, hh, he, by omega⟩

theorem headerStep_keeps_rxInv (hi : RxInv p rx) (hs : rx.state = .headerPartial)
    (hr : r.length = rx.replay.length - 1) : RxInv p (headerStep p b { rx with replay := r, input := l }) := by
  obtain ⟨hlen, hpv, hm⟩ := hi
  simp only [hs, hdrLen] at hlen hm
  obtain ⟨⟨w0, hw⟩, hroom, hv, hp, ht, hh, he⟩ := hm
  rcases headerStep_cases p b { rx with replay := r, input := l } with ⟨hl, heq⟩ | ⟨w, hfull, hd⟩
  · rw [heq]
    have hl : rx.win.length ≠ 19 := by simpa [hdrLen] using hl
    simp only [RxInv, hs, hdrLen, List.length_append, List.length_singleton]
    exact ⟨by omega, hpv, ⟨w0 ++ [b], by rw [hw, List.append_assoc]⟩, by omega, hv, hp, ht, hh, he⟩
  · have hwin : rx.win.length = 19 := by simpa [hdrLen] using congrArg List.length hfull
    obtain rfl : r = [] := List.length_eq_zero_iff.mp (by omega)
    rcases hd with ⟨h, hd, heq⟩ | ⟨e, -, heq⟩
    · rw [heq]
      obtain ⟨-, -, hmax⟩ := hdrDecode_ok hd
      by_cases hz : h.dataLength = 0
      · simp only [RxInv, headerOk, hz, if_true]
        exact ⟨by simp, hpv, trivial, hv, trivial, by simp, he, h, rfl, by simp [hz], hmax⟩
      · have hpos : 0 < h.dataLength.toNat := Nat.pos_of_ne_zero fun h0 => hz (BitVec.eq_of_toNat_eq h0)
        simp only [RxInv, headerOk, hz, if_false]
        exact ⟨by simp, hpv, trivial, hv, trivial, trivial, he, h, rfl, hpos, hmax⟩
    · rw [heq]
      exact ⟨by simp [headerBad], hpv, hv, _, rfl⟩

theorem payloadStep_keeps_rxInv (hi : RxInv p rx) (hs : rx.state = .payloadPartial)
    (hr : r.length = rx.replay.length - 1) (h : payloadStep b { rx with replay := r, input := l } = .ok rx') :
    RxInv p rx' := by
  obtain ⟨-, hpv, hm⟩ := hi
  simp only [hs] at hm
  obtain ⟨hq, hv, hw, ht, he, hd, hh, hlen, hmax⟩ := hm
  obtain rfl : r = [] := List.length_eq_zero_iff.mp (by simp [hr, hq])
  obtain ⟨hd', hh', hc⟩ := payloadStep_ok h
  obtain rfl : hd = hd' := Option.some.inj (hh.symm.trans hh')
  rcases hc with ⟨hl, rfl⟩ | ⟨hl, rfl⟩
  · exact ⟨by simp, hpv, rfl, hv, hw, by simp, he, hd, hh, by simpa using hl, hmax⟩
  · simp only [RxInv, hs, List.length_append, List.length_singleton]
    exact ⟨by simp, hpv, trivial, hv, hw, ht, he, hd, hh, Nat.lt_of_le_of_ne hlen hl, hmax⟩

theorem trailerStep_keeps_rxInv (hi : RxInv p rx) (hs : rx.state = .trailerPartial)
    (hr : r.length = rx.replay.length - 1) (h : trailerStep b { rx with replay := r, input := l } = .ok rx') :
    RxInv p rx' := by
  obtain ⟨-, hpv, hm⟩ := hi
  simp only [hs] at hm
  obtain ⟨hq, hv, hw, ht, he, hd, hh, hlen, hmax⟩ := hm
  obtain rfl : r = [] := List.length_eq_zero_iff.mp (by simp [hr, hq])
  rcases trailerStep_ok h with ⟨-, -, rfl⟩ | ⟨t0, hd', -, -, -, rfl⟩ | ⟨hl, rfl⟩
  · exact ⟨by simp, hpv, rfl, hv, hw, rfl, he, hd, hh, hlen, hmax⟩
  · exact ⟨by simp, hpv, hv, _, rfl⟩
  · have hl : rx.trl.length + 1 < trlLen := Nat.lt_of_le_of_ne ht fun h1 => hl (Nat.succ.inj h1)
    simp only [RxInv, hs, List.length_append, List.length_singleton]
    exact ⟨by simp, hpv, trivial, hv, hw, hl, he, hd, hh, hlen, hmax⟩

/-- A receiver that can take a byte keeps its invariants when it takes one. -/
theorem rxConsume_keeps_rxInv (hi : RxInv p rx) (hb : rx.state.takesBytes = true)
    (hr : r.length = rx.replay.length - 1) (h : rxConsume p b { rx with replay := r, input := l } = .ok rx') :
    RxInv p rx' := by
  unfold rxConsume at h
  split at h <;> rename_i hs
  · exact scanStep_keeps_rxInv hi hs hr h
  · cases h
    exact headerStep_keeps_rxInv hi hs hr
  · exact payloadStep_keeps_rxInv hi hs hr h
  · exact trailerStep_keeps_rxInv hi hs hr h
  · simp only at hs
    simp [hs, RxSt.takesBytes] at hb
  · simp only at hs
    simp [hs, RxSt.takesBytes] at hb

theorem rxConsume_handed_no_fault (hi : RxInv p rx) (f : Fault) :
    rxConsume p b { rx with replay := r, input := l } ≠ .error f :=
  rxConsume_no_fault (rx := { rx with replay := r, input := l }) hi.prev_some
    (fun hs => hi.hdr_some (hs.imp_right .inl)) f

end

/-- A byte from `rx_in` finds the replay queue empty, so `rxConsume_keeps_rxInv` applies with that queue. -/
theorem rxConsume_input_keeps_rxInv {p : Params} {b : Byte} {rx rx' : RxState} (hi : RxInv p rx)
    (hr : rxReady rx = true) (h : rxConsume p b { rx with input := rx.input ++ [b] } = .ok rx') : RxInv p rx' := by
  simp only [rxReady, Bool.and_eq_true, List.isEmpty_iff] at hr
  obtain ⟨hb, hq⟩ := hr
  exact rxConsume_keeps_rxInv (r := rx.replay) hi hb (by simp [hq]) h

end Sys2Proof.Machine
end

section
/-! PROOFS. From a state that meets the invariants nothing faults (spec/60_exceptions.md R304; spec/10_state.md R31; log 11): every
field that a meaning reads is there where the meaning is enabled. -/

namespace Sys2Proof.Machine

/-! ## The frame's fields (R33, R35) -/

theorem TxInv.fields_some {tx : TxState} (hi : TxInv tx) (hs : tx.state ≠ .idle) :
    ∃ w h f p, tx.width = some w ∧ tx.height = some h ∧ tx.pixelFormat = some f ∧ tx.payload = some p := by
  obtain ⟨-, hm⟩ := hi
  split at hm
  · exact absurd ‹_› hs
  · obtain ⟨w, h, f, p, hw, hh, hf, hp, -⟩ := hm
    exact ⟨w, h, f, p, hw, hh, hf, hp⟩

theorem TxInv.payload_some {tx : TxState} (hi : TxInv tx) (hs : tx.state ≠ .idle) : ∃ p, tx.payload = some p := by
  obtain ⟨-, -, -, p, -, -, -, hp⟩ := hi.fields_some hs
  exact ⟨p, hp⟩

theorem TxInv.hdr_some {tx : TxState} (hi : TxInv tx) (hs : tx.state = .writeHeader) : ∃ w, tx.hdr = some w := by
  obtain ⟨-, hm⟩ := hi
  simp only [hs] at hm
  obtain ⟨w, h, f, p, -, -, -, -, -, hhdr, -⟩ := hm
  exact ⟨_, hhdr⟩

/-! ## Shared operations -/

theorem guarded_no_fault {i : Instr} {s : State} {k : Result} {f : Fault}
    (hk : enabled i s = true → k ≠ .fault f) : guarded i s k ≠ .fault f := fun h =>
  let ⟨he, hf⟩ := guarded_fault h
  hk he hf

theorem liftRx_fault {s : State} {x : Except Fault RxState} {f : Fault} (h : liftRx s x = .fault f) : x = .error f := by
  cases x with
  | ok rx => simp [liftRx] at h
  | error g => simpa [liftRx] using h

theorem wireWrite_no_fault {bytes : List Byte} {resp : WriteResp} {s : State} {k : State → Result} {f : Fault}
    (hk : ∀ s, k s ≠ .fault f) : wireWrite bytes resp s k ≠ .fault f := by
  unfold wireWrite
  split
  · split
    · exact hk _
    · simp
  · exact hk _

/-! ## TX -/

section
variable {s : State} (hi : TxInv s.tx) (f : Fault)
include hi

theorem execTxCksum_no_fault : execTxCksum s ≠ .fault f := guarded_no_fault fun he => by
  have hs : s.tx.state = .checksum := by simpa [enabled] using he
  obtain ⟨w, h, x, p, hw, hh, hx, hp⟩ := hi.fields_some (by simp [hs])
  simp [hw, hh, hx, hp]

theorem execTxHdrWrite_no_fault (r : WriteResp) : execTxHdrWrite r s ≠ .fault f := guarded_no_fault fun he => by
  obtain ⟨w, hw⟩ := hi.hdr_some (by simpa [enabled] using he)
  rw [hw, readField_some]
  exact wireWrite_no_fault fun t => by split <;> simp

theorem execTxDelayDone_no_fault : execTxDelayDone s ≠ .fault f := guarded_no_fault fun he => by
  have hs : s.tx.state = .delay := by simpa [enabled] using he
  obtain ⟨p, hp⟩ := hi.payload_some (by simp [hs])
  simp [hp]

theorem execTxChunkWrite_no_fault (r : WriteResp) : execTxChunkWrite r s ≠ .fault f := guarded_no_fault fun he => by
  have hs : s.tx.state = .writeChunk := by simpa [enabled] using he
  obtain ⟨p, hp⟩ := hi.payload_some (by simp [hs])
  rw [hp, readField_some]
  refine wireWrite_no_fault fun t => ?_
  split
  · simp
  · split <;> simp

theorem execTxDrain_no_fault (r : DrainResp) : execTxDrain r s ≠ .fault f := guarded_no_fault fun he => by
  have hs : s.tx.state = .drain := by simpa [enabled] using he
  obtain ⟨p, hp⟩ := hi.payload_some (by simp [hs])
  cases r <;> simp [hp]

end

theorem execTxTrlWrite_no_fault (r : WriteResp) (s : State) (f : Fault) : execTxTrlWrite r s ≠ .fault f :=
  guarded_no_fault fun _ => wireWrite_no_fault fun t => by split <;> simp

theorem execSendFrame_no_fault (w h x : U16) (p : List Byte) (s : State) (f : Fault) :
    execSendFrame w h x p s ≠ .fault f := by
  unfold execSendFrame
  split
  · exact guarded_no_fault fun _ => by simp
  · simp

/-! ## RX -/

section
variable {s : State} (hi : RxInv s.params s.rx) (f : Fault)

include hi in
theorem takeByte_no_fault (b : Byte) : takeByte b s ≠ .fault f := fun h =>
  rxConsume_handed_no_fault (r := s.rx.replay) hi f (liftRx_fault h)

include hi in
theorem execRxReplay_no_fault : execRxReplay s ≠ .fault f := guarded_no_fault fun _ => by
  split
  · exact fun h => rxConsume_handed_no_fault (l := s.rx.input) hi f (liftRx_fault h)
  · simp

include hi in
theorem execRxSettle_no_fault : execRxSettle s ≠ .fault f := guarded_no_fault fun he => by
  split
  · rename_i hs
    obtain ⟨h, hh⟩ := hi.hdr_some (.inr (.inr hs))
    rw [settleComplete, hh]
    dsimp only
    split <;> simp
  · rename_i hs
    have hs : s.rx.state = .invalid := by
      cases hx : s.rx.state <;> simp_all [enabled, RxSt.takesBytes]
    obtain ⟨e, he⟩ := hi.err_some hs
    simp [settleInvalid, he]

include hi in
theorem execRxTimeout_no_fault : execRxTimeout s ≠ .fault f := guarded_no_fault fun _ => by
  split
  · rename_i hc
    intro h
    have h := liftRx_fault h
    unfold abandon at h
    split at h
    · simp at h
    · have hs : s.rx.state = .payloadPartial ∨ s.rx.state = .trailerPartial := by
        cases hx : s.rx.state <;> simp_all [RxSt.partialFrame]
      obtain ⟨hd, hh⟩ := hi.hdr_some (hs.imp_right .inl)
      simp [hh] at h
  · simp

/-- Each byte of a block leaves a receiver that meets the invariants, so the next one finds its fields too. -/
theorem feed_no_fault : ∀ (bs : List Byte) {s : State}, RxInv s.params s.rx → feed bs s ≠ .fault f
  | [], _, _ => by simp [feed]
  | b :: bs, s, hi => by
    unfold feed
    split
    · rename_i hr
      split
      · rename_i t ht
        obtain ⟨rx, hc, rfl⟩ := takeByte_next ht
        exact feed_no_fault bs (rxConsume_input_keeps_rxInv hi hr hc)
      · rename_i g hg
        exact absurd hg (takeByte_no_fault hi g b)
      · simp
    · simp

end

/-! ## Every operation, and the step -/

theorem exec_no_fault {s : State} (hi : BlockInv s) (i : Instr) (f : Fault) : exec i s ≠ .fault f := by
  obtain ⟨htx, hrx⟩ := hi
  cases i with
  | sendFrame w h x p => exact execSendFrame_no_fault w h x p s f
  | txCksum => exact execTxCksum_no_fault htx f
  | txHdrWrite r => exact execTxHdrWrite_no_fault htx f r
  | txDelayDone => exact execTxDelayDone_no_fault htx f
  | txChunkWrite r => exact execTxChunkWrite_no_fault htx f r
  | txDrain r => exact execTxDrain_no_fault htx f r
  | txTrlWrite r => exact execTxTrlWrite_no_fault r s f
  | rxByte b => exact guarded_no_fault fun _ => takeByte_no_fault hrx f b
  | rxReplay => exact execRxReplay_no_fault hrx f
  | rxSettle => exact execRxSettle_no_fault hrx f
  | rxTimeout => exact execRxTimeout_no_fault hrx f
  | ckClear u => exact guarded_no_fault fun _ => by simp
  | ckAdd u b => exact guarded_no_fault fun _ => by simp
  | cksum | hdrEncode | hdrDecode | txStatus | rxStatus | reset => simp [exec]
  | wireHeader h => exact guarded_no_fault fun _ => feed_no_fault f _ hrx
  | wireTrailer => exact guarded_no_fault fun _ => feed_no_fault f _ hrx
  | wireStart => exact guarded_no_fault fun _ => feed_no_fault f _ hrx

/-- A fault of a step is a fault of one operation, on a state that differs only in what is still to come. -/
theorem step_fault {s : State} {f : Fault} (h : step s = .fault f) :
    ∃ i l r b, exec i { s with held := l, rxIn := r, trace := b } = .fault f := by
  unfold step at h
  split at h
  · simp at h
  · simp at h
  · rename_i i s' hn
    obtain ⟨l, r, b, rfl⟩ := nextOp_some hn
    exact ⟨i, l, r, b, h⟩

/-- Settles O60: the invariants speak of no field that the schedule changes, so `exec_no_fault` serves the step too. -/
theorem noOperationFaults : Obligations.NoOperationFaults := by
  refine ⟨fun i s hi f => exec_no_fault hi i f, fun s hi f h => ?_⟩
  obtain ⟨i, l, r, b, hf⟩ := step_fault h
  exact exec_no_fault (s := { s with held := l, rxIn := r, trace := b }) hi i f hf

end Sys2Proof.Machine
end

section
/-! PROOFS. The agents share nothing (spec/10_state.md R30; spec/60_exceptions.md R310): what an operation of one agent does is a
function of that agent's fields and the parameters, and it changes only what is that agent's. -/

namespace Sys2Proof.Machine

/-! ## What an enabled operation of an agent does to the block

An effect is stated once, on all states that agree with `s` on what the agent reads. -/

/-- What an enabled TX operation leaves: the TX fields, the results and requests it appends, and the free values drawn. -/
structure TxEffect where
  tx       : TxState
  results  : List TxResult
  requests : List TxRequest
  draws    : Nat

/-- The state a TX effect leads to. -/
def TxEffect.on (e : TxEffect) (s : State) : State :=
  { s with tx := e.tx, txEv := s.txEv ++ e.results, txPort := s.txPort ++ e.requests, draws := e.draws }

/-- `k` has the effect `e` on every state with the TX fields, the parameters and the free-value count of `s`. -/
def TxEffect.IsOf (e : TxEffect) (k : State → Result) (s : State) : Prop :=
  ∀ s' : State, s'.tx = s.tx → s'.params = s.params → s'.draws = s.draws → k s' = .next (e.on s')

/-- What an enabled RX operation leaves: the RX fields, the events it appends, and the bytes it puts back on `rx_in`. -/
structure RxEffect where
  rx     : RxState
  events : List RxEvent
  unread : List Byte

/-- The state an RX effect leads to. -/
def RxEffect.on (e : RxEffect) (s : State) : State :=
  { s with rx := e.rx, rxEv := s.rxEv ++ e.events, rxIn := e.unread ++ s.rxIn }

/-- `k` has the effect `e` on every state with the RX fields and the parameters of `s`. -/
def RxEffect.IsOf (e : RxEffect) (k : State → Result) (s : State) : Prop :=
  ∀ s' : State, s'.rx = s.rx → s'.params = s.params → k s' = .next (e.on s')

theorem TxEffect.IsOf.next_eq {e : TxEffect} {k : State → Result} {s t : State} (he : e.IsOf k s)
    (h : k s = .next t) : t = e.on s := by
  rw [he s rfl rfl rfl] at h
  exact (Host.Outcome.next.inj h).symm

theorem RxEffect.IsOf.next_eq {e : RxEffect} {k : State → Result} {s t : State} (he : e.IsOf k s)
    (h : k s = .next t) : t = e.on s := by
  rw [he s rfl rfl] at h
  exact (Host.Outcome.next.inj h).symm

/-- Effects of different agents commute. -/
theorem TxEffect.on_comm (e : TxEffect) (e' : RxEffect) (s : State) : e.on (e'.on s) = e'.on (e.on s) := rfl

/-! ## Waiting -/

theorem enabled_congr_tx {i : Instr} (hi : i.isTx = true) {s s' : State} (h : s'.tx = s.tx) :
    enabled i s' = enabled i s := by
  cases i with
  | sendFrame | txCksum | txHdrWrite | txDelayDone | txChunkWrite | txDrain | txTrlWrite => simp only [enabled, h]
  | _ => simp [Instr.isTx] at hi

theorem enabled_congr_rx {i : Instr} (hi : i.isRx = true) {s s' : State} (h : s'.rx = s.rx) :
    enabled i s' = enabled i s := by
  cases i with
  | rxByte | rxReplay | rxSettle | rxTimeout | wireHeader | wireTrailer | wireStart => simp only [enabled, h]
  | _ => simp [Instr.isRx] at hi

theorem guarded_of_tx {i : Instr} (hi : i.isTx = true) {s s' : State} (he : enabled i s = true) (h : s'.tx = s.tx)
    (k : Result) : guarded i s' k = k :=
  guarded_of_enabled ((enabled_congr_tx hi h).trans he)

theorem guarded_of_rx {i : Instr} (hi : i.isRx = true) {s s' : State} (he : enabled i s = true) (h : s'.rx = s.rx)
    (k : Result) : guarded i s' k = k :=
  guarded_of_enabled ((enabled_congr_rx hi h).trans he)

theorem wellFormed_of_rx {i : Instr} (hi : i.isRx = true) : i.WellFormed := by
  cases i with
  | sendFrame | cksum => simp [Instr.isRx] at hi
  | _ => trivial

/-- A TX operation that answers a next state is one a record can express. -/
theorem wellFormed_of_tx {i : Instr} (hi : i.isTx = true) {s t : State} (h : exec i s = .next t) : i.WellFormed := by
  cases i with
  | sendFrame w ht f p => exact (execSendFrame_next h).1
  | cksum => simp [Instr.isTx] at hi
  | _ => trivial

theorem wait_of_tx {i : Instr} (hi : i.isTx = true) (s : State) : wait i s = s.hold i := by
  cases i with
  | sendFrame | txCksum | txHdrWrite | txDelayDone | txChunkWrite | txDrain | txTrlWrite => rfl
  | _ => simp [Instr.isTx] at hi

/-! ## TX -/

/-- An admitted write response does the same to every state with that many free values drawn. -/
theorem wireWrite_admitted {bytes : List Byte} {resp : WriteResp} {s t : State} {k : State → Result}
    (h : wireWrite bytes resp s k = .next t) :
    ∃ n d, ∀ (s' : State) (k' : State → Result), s'.draws = s.draws →
      wireWrite bytes resp s' k' = k' (s'.wrote bytes resp n d) := by
  cases resp with
  | count c =>
    simp only [wireWrite] at h
    split at h
    · rename_i hc
      exact ⟨c.toNat, s.draws, fun s' k' hd => by simp [wireWrite, hc, hd]⟩
    · simp at h
  | fail =>
    exact ⟨failedPrefix s.draws bytes.length, s.draws + 1, fun s' k' hd => by simp only [wireWrite, hd]⟩

/-- A write after which the frame attempt ends has one effect, whatever the rest of the block. -/
theorem finish_wrote_effect (c : TxCode) (bytes : List Byte) (resp : WriteResp) (n d : Nat) (s : State) :
    ∃ e : TxEffect, ∀ s' : State, s'.tx = s.tx → finish c (s'.wrote bytes resp n d) = e.on s' :=
  ⟨⟨{ s.tx with wire := s.tx.wire ++ bytes.take n }.finished, [⟨c, s.tx.frameId, s.tx.bytesSent⟩],
    [.write bytes resp], d⟩, fun s' htx => by rw [TxEffect.on, ← htx]; rfl⟩

/-- A write after which the frame goes on has one effect, whatever the rest of the block. -/
theorem setTx_wrote_effect (g : TxState → TxState) (bytes : List Byte) (resp : WriteResp) (n d : Nat) (s : State) :
    ∃ e : TxEffect, ∀ s' : State, s'.tx = s.tx →
      (s'.wrote bytes resp n d).setTx (g (s'.wrote bytes resp n d).tx) = e.on s' :=
  ⟨⟨g { s.tx with wire := s.tx.wire ++ bytes.take n }, [], [.write bytes resp], d⟩,
    fun s' htx => by simp [TxEffect.on, State.setTx, State.wrote, htx]⟩

theorem execSendFrame_effect {w ht f : U16} {p : List Byte} {s t : State}
    (he : enabled (.sendFrame w ht f p) s = true) (h : execSendFrame w ht f p s = .next t) :
    ∃ e : TxEffect, e.IsOf (execSendFrame w ht f p) s := by
  refine ⟨⟨s.tx.capture w ht f p, [], [], s.draws⟩, fun s' htx _ hd => ?_⟩
  rw [execSendFrame, if_pos (execSendFrame_next h).1, guarded_of_tx rfl he htx]
  simp [TxEffect.on, State.setTx, htx, ← hd]

theorem execTxCksum_effect {s t : State} (he : enabled .txCksum s = true) (h : execTxCksum s = .next t) :
    ∃ e : TxEffect, e.IsOf execTxCksum s := by
  obtain ⟨-, w, x, f, p, hw, hx, hf, hp, ht⟩ | ⟨hn, -⟩ := execTxCksum_next h
  · refine ⟨⟨t.tx, [], [], s.draws⟩, fun s' htx _ hd => ?_⟩
    rw [execTxCksum, guarded_of_tx rfl he htx]
    simp [TxEffect.on, State.setTx, htx, ← hd, hw, hx, hf, hp, ht]
  · simp [enabled, hn] at he

theorem execTxHdrWrite_effect {r : WriteResp} {s t : State} (he : enabled (.txHdrWrite r) s = true)
    (h : execTxHdrWrite r s = .next t) : ∃ e : TxEffect, e.IsOf (execTxHdrWrite r) s := by
  obtain ⟨hdr, hh, h⟩ := readField_next ((guarded_of_enabled he).symm.trans h)
  obtain ⟨n, d, hw⟩ := wireWrite_admitted h
  obtain ⟨e, hg⟩ := setTx_wrote_effect (fun tx => { tx with state := .delay }) hdr.toList r n d s
  obtain ⟨e', hf⟩ := finish_wrote_effect .headerWriteError hdr.toList r n d s
  refine ⟨if r = .count (BitVec.ofNat 32 hdrLen) then e else e', fun s' htx _ hd => ?_⟩
  rw [execTxHdrWrite, guarded_of_tx rfl he htx, htx, hh, readField_some, hw s' _ hd, hf s' htx]
  split
  · exact congrArg _ (hg s' htx)
  · rfl

theorem execTxDelayDone_effect {s t : State} (he : enabled .txDelayDone s = true) (h : execTxDelayDone s = .next t) :
    ∃ e : TxEffect, e.IsOf execTxDelayDone s := by
  obtain ⟨-, p, hp, ht⟩ | ⟨hn, -⟩ := execTxDelayDone_next h
  · refine ⟨⟨t.tx, [], [], s.draws⟩, fun s' htx _ hd => ?_⟩
    rw [execTxDelayDone, guarded_of_tx rfl he htx]
    simp [TxEffect.on, State.setTx, htx, ← hd, hp, ht]
  · simp [enabled, hn] at he

theorem execTxChunkWrite_effect {r : WriteResp} {s t : State} (he : enabled (.txChunkWrite r) s = true)
    (h : execTxChunkWrite r s = .next t) : ∃ e : TxEffect, e.IsOf (execTxChunkWrite r) s := by
  obtain ⟨p, hp, h⟩ := readField_next ((guarded_of_enabled he).symm.trans h)
  obtain ⟨n, d, hw⟩ := wireWrite_admitted h
  obtain ⟨e, hf⟩ := finish_wrote_effect .payloadWriteError (chunk s.params p s.tx.offset) r n d s
  cases r with
  | fail =>
    refine ⟨e, fun s' htx hpar hd => ?_⟩
    rw [execTxChunkWrite, guarded_of_tx rfl he htx, htx, hp, readField_some, hpar, hw s' _ hd, hf s' htx]
  | count c =>
    obtain ⟨e', hg⟩ := setTx_wrote_effect
      (fun tx => { tx with offset := tx.offset + c, bytesSent := tx.bytesSent + c, state := .drain })
      (chunk s.params p s.tx.offset) (.count c) n d s
    refine ⟨if c = 0 then e else e', fun s' htx hpar hd => ?_⟩
    rw [execTxChunkWrite, guarded_of_tx rfl he htx, htx, hp, readField_some, hpar, hw s' _ hd, hf s' htx]
    dsimp only
    split
    · rfl
    · exact congrArg _ (hg s' htx)

theorem execTxDrain_effect {r : DrainResp} {s t : State} (he : enabled (.txDrain r) s = true)
    (h : execTxDrain r s = .next t) : ∃ e : TxEffect, e.IsOf (execTxDrain r) s := by
  obtain ⟨-, ⟨rfl, ht⟩ | ⟨rfl, p, hp, ht⟩⟩ | ⟨hn, -⟩ := execTxDrain_next h
  · refine ⟨⟨t.tx, [⟨.payloadWriteError, s.tx.frameId, s.tx.bytesSent⟩],
      [.drain s.params.drainTimeout .timeout], s.draws⟩, fun s' htx hpar hd => ?_⟩
    rw [execTxDrain, guarded_of_tx rfl he htx]
    simp [TxEffect.on, finish, wireDrain, State.request, State.emitTx, State.setTx, htx, hpar, ← hd, ht]
  · refine ⟨⟨t.tx, [], [.drain s.params.drainTimeout .done], s.draws⟩, fun s' htx hpar hd => ?_⟩
    rw [execTxDrain, guarded_of_tx rfl he htx]
    simp [TxEffect.on, wireDrain, State.request, State.setTx, htx, hpar, ← hd, hp, ht]
  · simp [enabled, hn] at he

theorem execTxTrlWrite_effect {r : WriteResp} {s t : State} (he : enabled (.txTrlWrite r) s = true)
    (h : execTxTrlWrite r s = .next t) : ∃ e : TxEffect, e.IsOf (execTxTrlWrite r) s := by
  obtain ⟨n, d, hw⟩ := wireWrite_admitted ((guarded_of_enabled he).symm.trans h)
  obtain ⟨e, hf⟩ := finish_wrote_effect (if r = .count (BitVec.ofNat 32 trlLen) then .ok else .trailerWriteError)
    (le16 trailerMarker) r n d s
  refine ⟨e, fun s' htx _ hd => ?_⟩
  rw [execTxTrlWrite, guarded_of_tx rfl he htx, hw s' _ hd, ← hf s' htx]
  split <;> rfl

/-- What an enabled TX operation does is a function of the TX fields, the parameters and the count of free values. -/
theorem exec_tx_effect {i : Instr} {s t : State} (hi : i.isTx = true) (he : enabled i s = true)
    (h : exec i s = .next t) : ∃ e : TxEffect, e.IsOf (exec i) s := by
  cases i with
  | sendFrame => exact execSendFrame_effect he h
  | txCksum => exact execTxCksum_effect he h
  | txHdrWrite => exact execTxHdrWrite_effect he h
  | txDelayDone => exact execTxDelayDone_effect he h
  | txChunkWrite => exact execTxChunkWrite_effect he h
  | txDrain => exact execTxDrain_effect he h
  | txTrlWrite => exact execTxTrlWrite_effect he h
  | _ => simp [Instr.isTx] at hi

/-! ## RX -/

/-- Putting one receiver back is an effect. -/
theorem liftRx_effect {k : State → Result} {s : State} {rx : RxState}
    (hk : ∀ s' : State, s'.rx = s.rx → s'.params = s.params → k s' = liftRx s' (.ok rx)) :
    RxEffect.IsOf ⟨rx, [], []⟩ k s := fun s' hrx hpar => by
  rw [hk s' hrx hpar]
  simp [liftRx, State.setRx, RxEffect.on]

theorem takeByte_effect {b : Byte} {s t : State} (h : takeByte b s = .next t) :
    ∃ e : RxEffect, e.IsOf (takeByte b) s := by
  obtain ⟨rx, hx, -⟩ := takeByte_next h
  exact ⟨_, liftRx_effect fun s' hrx hpar => by rw [takeByte, hrx, hpar, hx]⟩

theorem feed_effect : ∀ {bs : List Byte} {s t : State}, feed bs s = .next t → ∃ e : RxEffect, e.IsOf (feed bs) s
  | [], s, _, _ => ⟨⟨s.rx, [], []⟩, fun s' hrx _ => by simp [feed, RxEffect.on, ← hrx]⟩
  | b :: r, s, t, h => by
    unfold feed at h
    split at h
    · rename_i hr
      split at h
      · rename_i s₁ h₁
        obtain ⟨e₁, he₁⟩ := takeByte_effect h₁
        rw [he₁.next_eq h₁] at h
        obtain ⟨e₂, he₂⟩ := feed_effect h
        refine ⟨⟨e₂.rx, e₁.events ++ e₂.events, e₂.unread ++ e₁.unread⟩, fun s' hrx hpar => ?_⟩
        rw [feed, hrx, if_pos hr, he₁ s' hrx hpar]
        dsimp only
        rw [he₂ (e₁.on s') rfl hpar]
        simp [RxEffect.on]
      · simp at h
      · simp at h
    · rename_i hr
      refine ⟨⟨s.rx, [], b :: r⟩, fun s' hrx _ => ?_⟩
      rw [feed, hrx, if_neg hr]
      simp [RxEffect.on, ← hrx]

theorem execRxByte_effect {b : Byte} {s t : State} (he : enabled (.rxByte b) s = true)
    (h : execRxByte b s = .next t) : ∃ e : RxEffect, e.IsOf (execRxByte b) s := by
  obtain ⟨e, hb⟩ := takeByte_effect ((guarded_of_enabled he).symm.trans h)
  exact ⟨e, fun s' hrx hpar => by rw [execRxByte, guarded_of_rx rfl he hrx, hb s' hrx hpar]⟩

theorem execRxReplay_effect {s t : State} (he : enabled .rxReplay s = true) (h : execRxReplay s = .next t) :
    ∃ e : RxEffect, e.IsOf execRxReplay s := by
  obtain ⟨b, r, rx, -, hr, hx, -⟩ | ⟨hn, -⟩ := execRxReplay_next h
  · refine ⟨⟨rx, [], []⟩, liftRx_effect fun s' hrx hpar => ?_⟩
    rw [execRxReplay, guarded_of_rx rfl he hrx, hrx, hr, ← hx, hpar]
  · rcases hn with hn | hn <;> simp [enabled, hn] at he

theorem execRxSettle_effect {s t : State} (he : enabled .rxSettle s = true) (h : execRxSettle s = .next t) :
    ∃ e : RxEffect, e.IsOf execRxSettle s := by
  obtain ⟨hs, hd, hh, ⟨hsum, ht⟩ | ⟨hsum, ht⟩⟩ | ⟨hs, e, hh, ht⟩ | ⟨hn, -⟩ := execRxSettle_next h
  · refine ⟨⟨t.rx, [.frameOk hd.frameId hd.width hd.height hd.pixelFormat hd.checksum s.rx.payload], []⟩,
      fun s' hrx _ => ?_⟩
    rw [execRxSettle, guarded_of_rx rfl he hrx]
    simp [settleComplete, hrx, hs, hh, hsum, ht, RxEffect.on, State.setRx, State.emitRx]
  · refine ⟨⟨t.rx, [], []⟩, fun s' hrx _ => ?_⟩
    rw [execRxSettle, guarded_of_rx rfl he hrx]
    simp [settleComplete, hrx, hs, hh, hsum, ht, RxEffect.on, State.setRx]
  · refine ⟨⟨t.rx, [.frameError e], []⟩, fun s' hrx _ => ?_⟩
    rw [execRxSettle, guarded_of_rx rfl he hrx]
    simp [settleInvalid, hrx, hs, hh, ht, RxEffect.on, State.setRx, State.emitRx]
  · simp [enabled, hn] at he

theorem execRxTimeout_effect {s t : State} (h : execRxTimeout s = .next t) :
    ∃ e : RxEffect, e.IsOf execRxTimeout s := by
  have he : enabled .rxTimeout s = true := rfl
  replace h := (guarded_of_enabled he).symm.trans h
  split at h
  · rename_i hc
    obtain ⟨rx, hx, -⟩ := liftRx_next h
    refine ⟨⟨rx, [], []⟩, liftRx_effect fun s' hrx _ => ?_⟩
    rw [execRxTimeout, guarded_of_rx rfl he hrx, hrx, if_pos hc, hx]
  · rename_i hc
    refine ⟨⟨s.rx, [], []⟩, fun s' hrx _ => ?_⟩
    rw [execRxTimeout, guarded_of_rx rfl he hrx, hrx, if_neg hc]
    simp [RxEffect.on, ← hrx]

/-- What an enabled RX operation does is a function of the RX fields and the parameters. -/
theorem exec_rx_effect {i : Instr} {s t : State} (hi : i.isRx = true) (he : enabled i s = true)
    (h : exec i s = .next t) : ∃ e : RxEffect, e.IsOf (exec i) s := by
  have block {bs : List Byte} (hx : ∀ s', exec i s' = guarded i s' (feed bs s')) :
      ∃ e : RxEffect, e.IsOf (exec i) s := by
    obtain ⟨e, hf⟩ := feed_effect ((guarded_of_enabled he).symm.trans ((hx s).symm.trans h))
    exact ⟨e, fun s' hrx hpar => by rw [hx, guarded_of_rx hi he hrx, hf s' hrx hpar]⟩
  cases i with
  | rxByte => exact execRxByte_effect he h
  | rxReplay => exact execRxReplay_effect he h
  | rxSettle => exact execRxSettle_effect he h
  | rxTimeout => exact execRxTimeout_effect h
  | wireHeader | wireTrailer | wireStart => exact block fun _ => rfl
  | _ => simp [Instr.isRx] at hi

/-! ## The statements -/

theorem exec_tx_frame {i : Instr} {s t : State} (hi : i.isTx = true) (h : exec i s = .next t) :
    t.rx = s.rx ∧ t.rxEv = s.rxEv ∧ t.rxIn = s.rxIn ∧ t.cmdOut = s.cmdOut ∧ t.params = s.params := by
  cases he : enabled i s with
  | true =>
    obtain ⟨e, hx⟩ := exec_tx_effect hi he h
    rw [hx.next_eq h]
    exact ⟨rfl, rfl, rfl, rfl, rfl⟩
  | false =>
    rw [exec_of_disabled (wellFormed_of_tx hi h) he, wait_of_tx hi] at h
    cases h
    exact ⟨rfl, rfl, rfl, rfl, rfl⟩

theorem exec_rx_frame {i : Instr} {s t : State} (hi : i.isRx = true) (h : exec i s = .next t) :
    t.tx = s.tx ∧ t.txEv = s.txEv ∧ t.txPort = s.txPort ∧ t.draws = s.draws ∧ t.cmdOut = s.cmdOut ∧
      t.params = s.params := by
  cases he : enabled i s with
  | true =>
    obtain ⟨e, hx⟩ := exec_rx_effect hi he h
    rw [hx.next_eq h]
    exact ⟨rfl, rfl, rfl, rfl, rfl, rfl⟩
  | false =>
    rw [exec_of_disabled (wellFormed_of_rx hi) he] at h
    cases h
    simp

/-- The combinational functions and the status reads answer a value and do nothing else. -/
theorem exec_read {i : Instr} {s t : State} (hi : i.isRead = true) (h : exec i s = .next t) : ∃ r, t = s.answer r := by
  cases i with
  | cksum | hdrEncode | hdrDecode | txStatus | rxStatus => exact ⟨_, (Host.Outcome.next.inj h).symm⟩
  | _ => simp [Instr.isRead] at hi

/-- An operation of neither agent answers a value, waits, resets the block, or writes an accumulator of no frame. -/
theorem exec_shared_next {i : Instr} {s t : State} (htx : i.isTx = false) (hrx : i.isRx = false)
    (h : exec i s = .next t) :
    (∃ r, t = s.answer r) ∨ t = s.hold i ∨ t = s.afterReset ∨ ∃ u v, sumFree u s = true ∧ t = s.setAcc u v := by
  cases i with
  | sendFrame | txCksum | txHdrWrite | txDelayDone | txChunkWrite | txDrain | txTrlWrite => simp [Instr.isTx] at htx
  | rxByte | rxReplay | rxSettle | rxTimeout | wireHeader | wireTrailer | wireStart => simp [Instr.isRx] at hrx
  | cksum | hdrEncode | hdrDecode | txStatus | rxStatus => exact .inl (exec_read rfl h)
  | ckClear u =>
    obtain ⟨hf, ht⟩ | ⟨-, ht⟩ := execCkClear_next h
    · exact .inr (.inr (.inr ⟨u, _, hf, ht⟩))
    · exact .inr (.inl ht)
  | ckAdd u b =>
    obtain ⟨hf, ht⟩ | ⟨-, ht⟩ := execCkAdd_next h
    · exact .inr (.inr (.inr ⟨u, _, hf, ht⟩))
    · exact .inr (.inl ht)
  | reset => exact .inr (.inr (.inl (Host.Outcome.next.inj h).symm))

/-- R9: no operation writes the parameters. -/
theorem exec_params {i : Instr} {s t : State} (h : exec i s = .next t) : t.params = s.params := by
  cases htx : i.isTx with
  | true =>
    obtain ⟨-, -, -, -, hp⟩ := exec_tx_frame htx h
    exact hp
  | false =>
    cases hrx : i.isRx with
    | true =>
      obtain ⟨-, -, -, -, -, hp⟩ := exec_rx_frame hrx h
      exact hp
    | false => obtain ⟨r, rfl⟩ | rfl | rfl | ⟨u, v, -, rfl⟩ := exec_shared_next htx hrx h <;> simp

/-- Settles O53: an enabled operation has its agent's effect alone, and one that waits changes no agent. -/
theorem agentsShareNothing : Obligations.AgentsShareNothing := by
  refine fun i s t h => ⟨fun hi => ?tx, fun hi => ?rx, fun hi => ?read, exec_params h⟩
  case tx =>
    obtain ⟨hrx, hev, hin, hcmd, -⟩ := exec_tx_frame hi h
    exact ⟨hrx, hev, hin, hcmd⟩
  case rx =>
    obtain ⟨htx, hev, hport, hd, hcmd, -⟩ := exec_rx_frame hi h
    exact ⟨htx, hev, hport, hd, hcmd⟩
  case read =>
    obtain ⟨r, rfl⟩ := exec_read hi h
    exact ⟨rfl, rfl, rfl, rfl⟩

/-- Settles O54: whether the operation is enabled, and its effect if it is, depend on its own agent's fields alone. -/
theorem agentsDoNotObserveEachOther : Obligations.AgentsDoNotObserveEachOther := by
  refine ⟨fun i s s' t hi htx hpar hd h => ?tx, fun i s s' t hi hrx hpar h => ?rx⟩
  case tx =>
    cases he : enabled i s with
    | true =>
      obtain ⟨e, hx⟩ := exec_tx_effect hi he h
      obtain rfl := hx.next_eq h
      exact ⟨e.on s', e.results, hx s' htx.symm hpar.symm hd.symm, rfl, rfl, rfl, rfl⟩
    | false =>
      have hw := wellFormed_of_tx hi h
      rw [exec_of_disabled hw he] at h
      cases h
      exact ⟨wait i s', [], exec_of_disabled hw ((enabled_congr_tx hi htx.symm).trans he), by simp [htx, hd]⟩
  case rx =>
    cases he : enabled i s with
    | true =>
      obtain ⟨e, hx⟩ := exec_rx_effect hi he h
      obtain rfl := hx.next_eq h
      exact ⟨e.on s', e.events, hx s' hrx.symm hpar.symm, rfl, rfl, rfl⟩
    | false =>
      have hw := wellFormed_of_rx hi
      rw [exec_of_disabled hw he] at h
      cases h
      exact ⟨wait i s', [], exec_of_disabled hw ((enabled_congr_rx hi hrx.symm).trans he), by simp [hrx]⟩

/-- Settles O55: the effect of each operation is the same after the other, and effects of different agents commute. -/
theorem interleavingDoesNotMatter : Obligations.InterleavingDoesNotMatter := by
  intro i j s a b hi hj hei hej ha hb
  obtain ⟨e, he⟩ := exec_tx_effect hi hei ha
  obtain ⟨e', he'⟩ := exec_rx_effect hj hej hb
  obtain rfl := he.next_eq ha
  obtain rfl := he'.next_eq hb
  refine ⟨e'.on (e.on s), ?_, ?_⟩
  · rw [runOps_cons ha, runOps_cons (he' (e.on s) rfl rfl), runOps_nil]
  · rw [runOps_cons hb, runOps_cons (he (e'.on s) rfl rfl rfl), runOps_nil, e.on_comm]

end Sys2Proof.Machine
end

section
/-! PROOFS. Every operation, and so every step, keeps the invariants of TX and of RX (spec/10_state.md R34, R35, R37, R39; logs 12,
13 and 25). -/

namespace Sys2Proof.Machine

/-! ## What an operation of no agent, or of the other agent, does to an agent -/

/-- An operation that is not the TX agent's leaves the TX fields, resets them, or writes an accumulator of no frame. -/
theorem exec_tx_of_not_isTx {i : Instr} {s t : State} (hi : i.isTx = false) (h : exec i s = .next t) :
    t.tx = s.tx ∨ t.tx = TxState.reset ∨ (s.tx.state.sumFree = true ∧ ∃ v, t.tx = { s.tx with sum := v }) := by
  cases hrx : i.isRx with
  | true => exact .inl (exec_rx_frame hrx h).1
  | false =>
    obtain ⟨r, rfl⟩ | rfl | rfl | ⟨u, v, hf, rfl⟩ := exec_shared_next hi hrx h
    · exact .inl rfl
    · exact .inl rfl
    · exact .inr (.inl rfl)
    · cases u with
      | tx => exact .inr (.inr ⟨hf, v, rfl⟩)
      | rx => exact .inl rfl

/-- An operation that is not the RX agent's leaves the RX fields, resets them, or writes an accumulator of no frame. -/
theorem exec_rx_of_not_isRx {i : Instr} {s t : State} (hi : i.isRx = false) (h : exec i s = .next t) :
    t.rx = s.rx ∨ t.rx = RxState.reset ∨ (s.rx.state.sumFree = true ∧ ∃ v, t.rx = { s.rx with sum := v }) := by
  cases htx : i.isTx with
  | true => exact .inl (exec_tx_frame htx h).1
  | false =>
    obtain ⟨r, rfl⟩ | rfl | rfl | ⟨u, v, hf, rfl⟩ := exec_shared_next htx hi h
    · exact .inl rfl
    · exact .inl rfl
    · exact .inr (.inl rfl)
    · cases u with
      | tx => exact .inl rfl
      | rx => exact .inr (.inr ⟨hf, v, rfl⟩)

/-- What every operation keeps every step keeps, if it does not speak of what is still to come. -/
theorem step_keeps {P : State → Prop} (hP : ∀ s l r b, P s → P { s with held := l, rxIn := r, trace := b })
    (hexec : ∀ {i s t}, P s → exec i s = .next t → P t) {s t : State} (hs : P s) (h : step s = .next t) : P t := by
  rcases step_next h with rfl | ⟨i, l, r, b, h⟩
  · exact hs
  · exact hexec (hP s l r b hs) h

/-! ## The TX invariants -/

theorem txInv_reset : TxInv TxState.reset := ⟨rfl, rfl, rfl, rfl, rfl, rfl, rfl⟩

theorem txInv_finished (tx : TxState) : TxInv tx.finished := ⟨rfl, rfl, rfl, rfl, rfl, rfl, rfl⟩

theorem TxInv.capture {tx : TxState} (hi : TxInv tx) (hs : tx.state = .idle) (w ht f : U16) {p : List Byte}
    (hp : fitsU32 p) : TxInv (tx.capture w ht f p) := by
  obtain ⟨-, hm⟩ := hi
  simp only [hs] at hm
  obtain ⟨-, -, -, -, hh, -⟩ := hm
  exact ⟨rfl, w, ht, f, p, rfl, rfl, rfl, rfl, hp, hh, rfl⟩

/-- `WriteHeader` begins with the offset at 0 and the header of the captured frame. -/
theorem TxInv.buildHeader {tx : TxState} (hi : TxInv tx) (hs : tx.state = .checksum) {w ht f : U16} {p : List Byte}
    (hw : tx.width = some w) (hh : tx.height = some ht) (hf : tx.pixelFormat = some f) (hp : tx.payload = some p)
    (sum : U32) : TxInv { tx with
      sum := sum, hdr := some (hdrEncode (frameHeader w ht f tx.frameId p)), state := .writeHeader } := by
  obtain ⟨hsent, hm⟩ := hi
  simp only [hs] at hm
  obtain ⟨-, -, -, p', -, -, -, hp', hfit, -, hoff⟩ := hm
  obtain rfl := Option.some.inj (hp.symm.trans hp')
  exact ⟨hsent, w, ht, f, p, hw, hh, hf, hp, hfit, rfl, hoff⟩

/-- Where the offset stands while a frame is held. -/
theorem TxInv.offset_place {tx : TxState} (hi : TxInv tx) (hs : tx.state ≠ .idle) {p : List Byte}
    (hp : tx.payload = some p) : offsetOk tx.state tx.offset.toNat p.length := by
  obtain ⟨-, hm⟩ := hi
  split at hm
  · exact absurd ‹_› hs
  · obtain ⟨-, -, -, p', -, -, -, hp', -, -, hoff⟩ := hm
    obtain rfl := Option.some.inj (hp.symm.trans hp')
    exact hoff

/-- From `WriteHeader` on a frame goes on by its state, its offset and the wire; only the offset's place is to be shown. -/
theorem TxInv.advance {tx : TxState} (hi : TxInv tx) (hs : tx.state.sumFree = false) {st : TxSt}
    (hst : st.sumFree = false) {off sent : U32} (hsent : sent = off) (wire : List Byte) {p : List Byte}
    (hp : tx.payload = some p) (hoff : offsetOk st off.toNat p.length) :
    TxInv { tx with state := st, offset := off, bytesSent := sent, wire := wire } := by
  obtain ⟨-, hm⟩ := hi
  split at hm
  · rename_i h0
    simp [h0, TxSt.sumFree] at hs
  · obtain ⟨w, ht, f, p', hw, hh, hf, hp', hfit, hhdr, -⟩ := hm
    obtain rfl := Option.some.inj (hp.symm.trans hp')
    rw [if_neg (fun h0 => by simp [h0, TxSt.sumFree] at hs)] at hhdr
    refine ⟨hsent, ?_⟩
    cases st with
    | idle | checksum => simp [TxSt.sumFree] at hst
    | _ => exact ⟨w, ht, f, p, hw, hh, hf, hp, hfit, hhdr, hoff⟩

/-- Bytes of a chunk counted on the offset stay within the payload. -/
theorem offset_add_le {off c : U32} {len chunkLen : Nat} (hoff : off.toNat < len)
    (hc : c.toNat ≤ min chunkLen (len - off.toNat)) : (off + c).toNat ≤ len := by
  rw [BitVec.toNat_add]
  omega

theorem exec_tx_keeps_txInv {i : Instr} {s t : State} (hi : i.isTx = true) (hinv : TxInv s.tx)
    (h : exec i s = .next t) : TxInv t.tx := by
  cases i with
  | sendFrame w ht f p =>
    obtain ⟨hp, ⟨hs, rfl⟩ | ⟨-, rfl⟩⟩ := execSendFrame_next h
    · exact hinv.capture hs w ht f hp
    · exact hinv
  | txCksum =>
    obtain ⟨hs, w, ht, f, p, hw, hh, hf, hp, rfl⟩ | ⟨-, rfl⟩ := execTxCksum_next h
    · exact hinv.buildHeader hs hw hh hf hp _
    · exact hinv
  | txHdrWrite r =>
    obtain ⟨hs, hdr, n, d, -, -, -, ⟨-, rfl⟩ | ⟨-, rfl⟩⟩ | ⟨-, rfl⟩ := execTxHdrWrite_next h
    · obtain ⟨p, hp⟩ := hinv.payload_some (by simp [hs])
      have hoff := hinv.offset_place (by simp [hs]) hp
      rw [hs] at hoff
      exact hinv.advance (by simp [hs, TxSt.sumFree]) (st := .delay) rfl hinv.1 _ hp hoff
    · exact txInv_finished _
    · exact hinv
  | txDelayDone =>
    obtain ⟨hs, p, hp, rfl⟩ | ⟨-, rfl⟩ := execTxDelayDone_next h
    · have hoff := hinv.offset_place (by simp [hs]) hp
      rw [hs, offsetOk] at hoff
      refine hinv.advance (by simp [hs, TxSt.sumFree]) (by split <;> rfl) hinv.1 _ hp ?_
      split
      · exact hoff.trans (Eq.symm ‹_›)
      · exact hoff.trans_lt (Nat.pos_of_ne_zero ‹_›)
    · exact hinv
  | txChunkWrite r =>
    obtain ⟨hs, p, n, d, hp, hn, hcount, ⟨-, rfl⟩ | ⟨c, rfl, -, rfl⟩⟩ | ⟨-, rfl⟩ := execTxChunkWrite_next h
    · exact txInv_finished _
    · have hoff := hinv.offset_place (by simp [hs]) hp
      obtain ⟨rfl, -⟩ := hcount c rfl
      rw [hs, offsetOk] at hoff
      rw [chunk_length] at hn
      exact hinv.advance (by simp [hs, TxSt.sumFree]) (st := .drain) rfl (congrArg (· + c) hinv.1) _ hp
        (offset_add_le hoff hn)
    · exact hinv
  | txDrain r =>
    obtain ⟨hs, ⟨rfl, rfl⟩ | ⟨rfl, p, hp, rfl⟩⟩ | ⟨-, rfl⟩ := execTxDrain_next h
    · exact txInv_finished _
    · have hoff := hinv.offset_place (by simp [hs]) hp
      rw [hs, offsetOk] at hoff
      refine hinv.advance (by simp [hs, TxSt.sumFree]) (by split <;> rfl) hinv.1 _ hp ?_
      split
      · assumption
      · exact Nat.lt_of_le_of_ne hoff ‹_›
    · exact hinv
  | txTrlWrite r =>
    obtain ⟨-, n, d, -, -, ⟨-, rfl⟩ | ⟨-, rfl⟩⟩ | ⟨-, rfl⟩ := execTxTrlWrite_next h
    · exact txInv_finished _
    · exact txInv_finished _
    · exact hinv
  | _ => simp [Instr.isTx] at hi

theorem exec_keeps_txInv {i : Instr} {s t : State} (hinv : TxInv s.tx) (h : exec i s = .next t) : TxInv t.tx := by
  cases hi : i.isTx with
  | true => exact exec_tx_keeps_txInv hi hinv h
  | false =>
    rcases exec_tx_of_not_isTx hi h with ht | ht | ⟨-, v, ht⟩ <;> rw [ht]
    · exact hinv
    · exact txInv_reset
    · exact hinv

/-- Settles O56: each operation keeps the invariants, and they speak of no field that the schedule changes. -/
theorem txInvariantKept : Obligations.TxInvariantKept := fun _ _ =>
  step_keeps (P := fun s => TxInv s.tx) (fun _ _ _ _ => id) exec_keeps_txInv

/-! ## The RX invariants -/

theorem rxInv_reset (p : Params) : RxInv p RxState.reset := ⟨by decide, rfl, rfl, rfl, rfl, rfl, rfl, fun _ => rfl⟩

/-- A receiver that scans again has every buffer empty; only the replay queue stays. -/
theorem rxInv_clearFrame (p : Params) {rx : RxState} (hq : rx.replay.length < hdrLen) :
    RxInv p { clearFrame rx with state := .scanning } := ⟨hq, rfl, rfl, rfl, rfl, rfl, rfl, fun _ => rfl⟩

/-- A byte is remembered only while scanning (R37). -/
theorem RxInv.prevValid_false {p : Params} {rx : RxState} (hi : RxInv p rx) (hs : rx.state ≠ .scanning) :
    rx.prevValid = false := by
  obtain ⟨-, -, hm⟩ := hi
  split at hm
  · exact absurd ‹_› hs
  · obtain ⟨-, -, hv, -⟩ := hm
    exact hv
  · obtain ⟨-, hv, -⟩ := hm
    exact hv
  · obtain ⟨-, hv, -⟩ := hm
    exact hv
  · obtain ⟨-, hv, -⟩ := hm
    exact hv
  · exact hm.1

theorem RxInv.failRx {p : Params} {rx : RxState} (hi : RxInv p rx) (hs : rx.state ≠ .scanning) (e : RxError) :
    RxInv p (failRx e rx) := by
  obtain ⟨hlen, hp, -⟩ := id hi
  exact ⟨hlen, hp, hi.prevValid_false hs, e, rfl⟩

theorem exec_rx_keeps_rxInv {i : Instr} {s t : State} (hi : i.isRx = true) (hinv : RxInv s.params s.rx)
    (h : exec i s = .next t) : RxInv s.params t.rx := by
  have block {bs : List Byte} (h : guarded i s (feed bs s) = .next t) : RxInv s.params t.rx := by
    rcases guarded_next h with ⟨-, hf⟩ | ⟨-, rfl⟩
    · exact (feed_next (fun _ _ _ _ => rxConsume_input_keeps_rxInv) hinv hf).1
    · rwa [wait_rx]
  cases i with
  | rxByte b =>
    obtain ⟨hr, rx, hc, rfl⟩ | ⟨-, rfl⟩ := execRxByte_next h
    · exact rxConsume_input_keeps_rxInv hinv hr hc
    · exact hinv
  | rxReplay =>
    obtain ⟨b, r, rx, hb, hr, hc, rfl⟩ | ⟨-, rfl⟩ := execRxReplay_next h
    · exact rxConsume_keeps_rxInv (l := s.rx.input) hinv hb (by simp [hr]) hc
    · exact hinv
  | rxSettle =>
    obtain ⟨hs, hd, -, ⟨-, rfl⟩ | ⟨-, rfl⟩⟩ | ⟨-, e, -, rfl⟩ | ⟨-, rfl⟩ := execRxSettle_next h
    · exact rxInv_clearFrame _ hinv.1
    · exact hinv.failRx (by simp [hs]) _
    · exact rxInv_clearFrame _ hinv.1
    · exact hinv
  | rxTimeout =>
    obtain ⟨hs, -, f, -, -, rfl⟩ | ⟨-, rfl⟩ := execRxTimeout_next h
    · exact hinv.failRx (fun h0 => by simp [h0, RxSt.partialFrame] at hs) _
    · exact hinv
  | wireHeader | wireTrailer | wireStart => exact block h
  | _ => simp [Instr.isRx] at hi

theorem exec_keeps_rxInv {i : Instr} {s t : State} (hinv : RxInv s.params s.rx) (h : exec i s = .next t) :
    RxInv t.params t.rx := by
  rw [exec_params h]
  cases hi : i.isRx with
  | true => exact exec_rx_keeps_rxInv hi hinv h
  | false =>
    rcases exec_rx_of_not_isRx hi h with ht | ht | ⟨-, v, ht⟩ <;> rw [ht]
    · exact hinv
    · exact rxInv_reset _
    · exact hinv

/-- Settles O57: each operation keeps the invariants, and they speak of no field that the schedule changes. -/
theorem rxInvariantKept : Obligations.RxInvariantKept := fun _ _ =>
  step_keeps (P := fun s => RxInv s.params s.rx) (fun _ _ _ _ => id) exec_keeps_rxInv

/-! ## The accumulators -/

/-- The clause of R35 speaks of the states in which `tx.sum` belongs to a frame. -/
theorem txSumInv_iff {tx : TxState} :
    TxSumInv tx ↔ (tx.state.sumFree = false → ∀ p, tx.payload = some p → tx.sum = cksum p) := by
  unfold TxSumInv
  cases hs : tx.state <;> simp [TxSt.sumFree]

/-- The clause of R39 is empty while `rx.sum` belongs to no frame, and after a failure. -/
theorem rxSumInv_of_free {rx : RxState} (h : rx.state.sumFree = true ∨ rx.state = .invalid) : RxSumInv rx := by
  unfold RxSumInv
  cases hs : rx.state <;> simp [hs, RxSt.sumFree] at h ⊢

theorem rxSumInv_of_eq {rx : RxState} (h : rx.sum = cksum rx.payload) : RxSumInv rx := by
  unfold RxSumInv
  split <;> simp [h]

theorem RxSumInv.sum_eq {rx : RxState} (hi : RxSumInv rx)
    (hs : rx.state = .payloadPartial ∨ rx.state = .trailerPartial ∨ rx.state = .complete) :
    rx.sum = cksum rx.payload := by
  unfold RxSumInv at hi
  rcases hs with hs | hs | hs <;> simpa only [hs] using hi

theorem TxSumInv.advance {tx tx' : TxState} (hi : TxSumInv tx) (hs : tx.state.sumFree = false)
    (hsum : tx'.sum = tx.sum) (hp : tx'.payload = tx.payload) : TxSumInv tx' := by
  rw [txSumInv_iff] at hi ⊢
  rw [hsum, hp]
  exact fun _ => hi hs

theorem exec_tx_keeps_txSumInv {i : Instr} {s t : State} (hi : i.isTx = true) (hinv : TxSumInv s.tx)
    (h : exec i s = .next t) : TxSumInv t.tx := by
  cases i with
  | sendFrame w ht f p =>
    obtain ⟨-, ⟨-, rfl⟩ | ⟨-, rfl⟩⟩ := execSendFrame_next h
    · trivial
    · exact hinv
  | txCksum =>
    obtain ⟨-, w, ht, f, p, -, -, -, hp, rfl⟩ | ⟨-, rfl⟩ := execTxCksum_next h
    · exact fun q hq => congrArg cksum (Option.some.inj (hp.symm.trans hq))
    · exact hinv
  | txHdrWrite r =>
    obtain ⟨hs, hdr, n, d, -, -, -, ⟨-, rfl⟩ | ⟨-, rfl⟩⟩ | ⟨-, rfl⟩ := execTxHdrWrite_next h
    · exact hinv.advance (by simp [hs, TxSt.sumFree]) rfl rfl
    · trivial
    · exact hinv
  | txDelayDone =>
    obtain ⟨hs, p, -, rfl⟩ | ⟨-, rfl⟩ := execTxDelayDone_next h
    · exact hinv.advance (by simp [hs, TxSt.sumFree]) rfl rfl
    · exact hinv
  | txChunkWrite r =>
    obtain ⟨hs, p, n, d, -, -, -, ⟨-, rfl⟩ | ⟨c, -, -, rfl⟩⟩ | ⟨-, rfl⟩ := execTxChunkWrite_next h
    · trivial
    · exact hinv.advance (by simp [hs, TxSt.sumFree]) rfl rfl
    · exact hinv
  | txDrain r =>
    obtain ⟨hs, ⟨-, rfl⟩ | ⟨-, p, -, rfl⟩⟩ | ⟨-, rfl⟩ := execTxDrain_next h
    · trivial
    · exact hinv.advance (by simp [hs, TxSt.sumFree]) rfl rfl
    · exact hinv
  | txTrlWrite r =>
    obtain ⟨-, n, d, -, -, ⟨-, rfl⟩ | ⟨-, rfl⟩⟩ | ⟨-, rfl⟩ := execTxTrlWrite_next h
    · trivial
    · trivial
    · exact hinv
  | _ => simp [Instr.isTx] at hi

/-- One byte keeps the clause: it is counted on the payload and on the sum alike, and a header starts both afresh. -/
theorem rxConsume_keeps_rxSumInv {p : Params} {b : Byte} {rx rx' : RxState} (hi : RxSumInv rx)
    (h : rxConsume p b rx = .ok rx') : RxSumInv rx' := by
  unfold rxConsume at h
  split at h <;> rename_i hs
  · obtain ⟨-, -, -, rfl⟩ | rfl := scanStep_ok h
    · exact rxSumInv_of_free (.inl rfl)
    · exact rxSumInv_of_free (.inl (by simp [hs, RxSt.sumFree]))
  · cases h
    obtain ⟨-, hx⟩ | ⟨w, -, ⟨hd, -, hx⟩ | ⟨e, -, hx⟩⟩ := headerStep_cases p b rx <;> rw [hx]
    · exact rxSumInv_of_free (.inl (by simp [hs, RxSt.sumFree]))
    · exact rxSumInv_of_eq rfl
    · exact rxSumInv_of_free (.inr rfl)
  · have hsum : ckAddByte rx.sum b = cksum (rx.payload ++ [b]) := by rw [cksum_snoc, hi.sum_eq (.inl hs)]
    obtain ⟨hd, -, ⟨-, rfl⟩ | ⟨-, rfl⟩⟩ := payloadStep_ok h
    · exact rxSumInv_of_eq hsum
    · exact rxSumInv_of_eq hsum
  · have hsum := hi.sum_eq (.inr (.inl hs))
    obtain ⟨-, -, rfl⟩ | ⟨t0, hd, -, -, -, rfl⟩ | ⟨-, rfl⟩ := trailerStep_ok h
    · exact rxSumInv_of_eq hsum
    · exact rxSumInv_of_free (.inr rfl)
    · exact rxSumInv_of_eq hsum
  · cases h
    exact hi
  · cases h
    exact hi

theorem exec_rx_keeps_rxSumInv {i : Instr} {s t : State} (hi : i.isRx = true) (hinv : RxSumInv s.rx)
    (h : exec i s = .next t) : RxSumInv t.rx := by
  have block {bs : List Byte} (h : guarded i s (feed bs s) = .next t) : RxSumInv t.rx := by
    rcases guarded_next h with ⟨-, hf⟩ | ⟨-, rfl⟩
    · exact (feed_next (P := fun _ => RxSumInv) (fun _ b rx _ hrx _ hc =>
        rxConsume_keeps_rxSumInv (rx := { rx with input := rx.input ++ [b] }) hrx hc) hinv hf).1
    · rwa [wait_rx]
  cases i with
  | rxByte b =>
    obtain ⟨-, rx, hc, rfl⟩ | ⟨-, rfl⟩ := execRxByte_next h
    · exact rxConsume_keeps_rxSumInv (rx := { s.rx with input := s.rx.input ++ [b] }) hinv hc
    · exact hinv
  | rxReplay =>
    obtain ⟨b, r, rx, -, -, hc, rfl⟩ | ⟨-, rfl⟩ := execRxReplay_next h
    · exact rxConsume_keeps_rxSumInv (rx := { s.rx with replay := r }) hinv hc
    · exact hinv
  | rxSettle =>
    obtain ⟨-, hd, -, ⟨-, rfl⟩ | ⟨-, rfl⟩⟩ | ⟨-, e, -, rfl⟩ | ⟨-, rfl⟩ := execRxSettle_next h
    · trivial
    · trivial
    · trivial
    · exact hinv
  | rxTimeout =>
    obtain ⟨-, -, f, -, -, rfl⟩ | ⟨-, rfl⟩ := execRxTimeout_next h
    · trivial
    · exact hinv
  | wireHeader | wireTrailer | wireStart => exact block h
  | _ => simp [Instr.isRx] at hi

theorem exec_keeps_txSumInv {i : Instr} {s t : State} (hinv : TxSumInv s.tx) (h : exec i s = .next t) :
    TxSumInv t.tx := by
  cases hi : i.isTx with
  | true => exact exec_tx_keeps_txSumInv hi hinv h
  | false =>
    rcases exec_tx_of_not_isTx hi h with ht | ht | ⟨hf, v, ht⟩ <;> rw [ht]
    · exact hinv
    · trivial
    · exact txSumInv_iff.mpr fun hn => absurd (hf.symm.trans hn) (by simp)

theorem exec_keeps_rxSumInv {i : Instr} {s t : State} (hinv : RxSumInv s.rx) (h : exec i s = .next t) :
    RxSumInv t.rx := by
  cases hi : i.isRx with
  | true => exact exec_rx_keeps_rxSumInv hi hinv h
  | false =>
    rcases exec_rx_of_not_isRx hi h with ht | ht | ⟨hf, v, ht⟩ <;> rw [ht]
    · exact hinv
    · trivial
    · exact rxSumInv_of_free (.inl hf)

theorem exec_keeps_sumInv {i : Instr} {s t : State} (hinv : SumInv s) (h : exec i s = .next t) : SumInv t :=
  ⟨exec_keeps_txSumInv hinv.1 h, exec_keeps_rxSumInv hinv.2 h⟩

/-- Settles O58: each agent's own steps keep its clause, and a micro-operation writes an accumulator of no frame. -/
theorem accumulatorsHoldChecksums : Obligations.AccumulatorsHoldChecksums :=
  ⟨fun _ _ _ => exec_keeps_sumInv, fun _ _ => step_keeps (P := SumInv) (fun _ _ _ _ => id) exec_keeps_sumInv⟩

/-- Settles O59: in the reset state no frame is held and the receiver scans with empty buffers. -/
theorem invariantsHoldAtReset : Obligations.InvariantsHoldAtReset :=
  ⟨⟨txInv_reset, rxInv_reset _⟩, trivial, trivial⟩

end Sys2Proof.Machine
end

section
/-! PROOFS. A block of bytes on `rx_in` is its bytes taken one at a time (spec/20_memory.md R87; spec/44_frame_receiver.md R240,
R249; log 7). -/

namespace Sys2Proof.Machine

theorem exec_rxByte_of_ready {b : Byte} {s : State} (hr : rxReady s.rx = true) :
    exec (.rxByte b) s = takeByte b s := guarded_of_enabled hr

theorem exec_rxByte_of_not_ready {b : Byte} {s : State} (hr : rxReady s.rx = false) :
    exec (.rxByte b) s = .next (s.offer [b]) := guarded_of_disabled hr

/-- A receiver that is not ready leaves every byte to the transport, in order (R240). -/
theorem runOps_rxByte_of_not_ready : ∀ (bs : List Byte) {s : State}, rxReady s.rx = false →
    runOps (bs.map .rxByte) s = .next (s.offer bs)
  | [], s, _ => by simp [State.offer]
  | b :: r, s, hr => by
    rw [List.map_cons, runOps_cons (exec_rxByte_of_not_ready hr), runOps_rxByte_of_not_ready r (s := s.offer [b]) hr]
    simp [State.offer]

/-- With no byte waiting, a block and its bytes stop at the same byte and leave the rest to the transport alike. -/
theorem feed_eq_runOps_rxByte : ∀ (bs : List Byte) {s : State}, s.rxIn = [] →
    feed bs s = runOps (bs.map .rxByte) s
  | [], _, _ => rfl
  | b :: r, s, hin => by
    cases hr : rxReady s.rx with
    | true =>
      rw [feed, if_pos hr, List.map_cons, runOps, exec_rxByte_of_ready hr]
      cases ht : takeByte b s with
      | next t =>
        obtain ⟨rx, -, rfl⟩ := takeByte_next ht
        exact feed_eq_runOps_rxByte r (s := s.setRx rx) hin
      | fault f => rfl
      | refused x => rfl
    | false =>
      rw [runOps_rxByte_of_not_ready _ hr]
      simp [feed, hr, hin, State.offer]

theorem feed_singleton {b : Byte} {s : State} (hr : rxReady s.rx = true) : feed [b] s = takeByte b s := by
  rw [feed, if_pos hr]
  cases takeByte b s <;> rfl

/-- An input is enabled where the receiver is ready, and its meaning there is to feed the receiver its bytes. -/
theorem exec_input_of_ready {i : Instr} {s : State} {bytes : List Byte} (hi : inputBytes i = some bytes)
    (hr : rxReady s.rx = true) : exec i s = feed bytes s := by
  cases i with
  | rxByte b =>
    cases hi
    exact (exec_rxByte_of_ready hr).trans (feed_singleton hr).symm
  | wireHeader | wireTrailer | wireStart =>
    cases hi
    exact guarded_of_enabled hr
  | _ => simp [inputBytes] at hi

theorem exec_input_of_not_ready {i : Instr} {s : State} {bytes : List Byte} (hi : inputBytes i = some bytes)
    (hr : rxReady s.rx = false) : exec i s = .next (s.offer bytes) := by
  cases i with
  | rxByte | wireHeader | wireTrailer | wireStart =>
    cases hi
    exact guarded_of_disabled hr
  | _ => simp [inputBytes] at hi

/-- Settles O42: a ready receiver is fed the bytes of the block, and one that is not ready takes none of them. -/
theorem blockIsItsBytes : Obligations.BlockIsItsBytes := by
  intro i s bytes hi hin
  cases hr : rxReady s.rx with
  | true => rw [exec_input_of_ready hi hr, feed_eq_runOps_rxByte bytes hin]
  | false => rw [exec_input_of_not_ready hi hr, runOps_rxByte_of_not_ready bytes hr]

end Sys2Proof.Machine
end

section
/-! PROOFS. What one operation puts on the wire (spec/20_memory.md R88, R93; spec/10_state.md R48; log 6). -/

namespace Sys2Proof.Machine

/-- From `s` to `t` at most one request is logged, and a write request puts a prefix of its bytes on the wire, of exactly the
length its count says. -/
def OneRequest (s t : State) : Prop :=
  (t.tx.wire = s.tx.wire ∧
    (t.txPort = s.txPort ∨ ∃ resp, t.txPort = s.txPort ++ [.drain s.params.drainTimeout resp])) ∨
  (∃ bytes resp k, t.txPort = s.txPort ++ [.write bytes resp] ∧ t.tx.wire = s.tx.wire ++ bytes.take k ∧
    k ≤ bytes.length ∧ ∀ n, resp = .count n → k = n.toNat)

theorem OneRequest.of_unchanged {s t : State} (hw : t.tx.wire = s.tx.wire) (hp : t.txPort = s.txPort) :
    OneRequest s t := .inl ⟨hw, .inl hp⟩

theorem OneRequest.of_drain {s t : State} {r : DrainResp} (hw : t.tx.wire = s.tx.wire)
    (hp : t.txPort = (wireDrain r s).txPort) : OneRequest s t := .inl ⟨hw, .inr ⟨r, hp⟩⟩

/-- What follows a write logs no request of its own and adds nothing to the wire. -/
theorem OneRequest.of_wrote {s t : State} {bytes : List Byte} {r : WriteResp} {n d : Nat} (hn : n ≤ bytes.length)
    (hc : ∀ c, r = .count c → n = c.toNat ∧ d = s.draws) (hw : t.tx.wire = (s.wrote bytes r n d).tx.wire)
    (hp : t.txPort = (s.wrote bytes r n d).txPort) : OneRequest s t :=
  .inr ⟨bytes, r, n, hp, hw, hn, fun c h => (hc c h).1⟩

theorem exec_tx_oneRequest {i : Instr} {s t : State} (hi : i.isTx = true) (h : exec i s = .next t) :
    OneRequest s t := by
  cases i with
  | sendFrame w ht f p =>
    obtain ⟨-, ⟨-, rfl⟩ | ⟨-, rfl⟩⟩ := execSendFrame_next h
    · exact .of_unchanged rfl rfl
    · exact .of_unchanged rfl rfl
  | txCksum =>
    obtain ⟨-, w, ht, f, p, -, -, -, -, rfl⟩ | ⟨-, rfl⟩ := execTxCksum_next h
    · exact .of_unchanged rfl rfl
    · exact .of_unchanged rfl rfl
  | txHdrWrite r =>
    obtain ⟨-, hdr, n, d, -, hn, hc, ⟨-, rfl⟩ | ⟨-, rfl⟩⟩ | ⟨-, rfl⟩ := execTxHdrWrite_next h
    · exact .of_wrote (hn.trans_eq hdr.length_toList.symm) hc rfl rfl
    · exact .of_wrote (hn.trans_eq hdr.length_toList.symm) hc rfl rfl
    · exact .of_unchanged rfl rfl
  | txDelayDone =>
    obtain ⟨-, p, -, rfl⟩ | ⟨-, rfl⟩ := execTxDelayDone_next h
    · exact .of_unchanged rfl rfl
    · exact .of_unchanged rfl rfl
  | txChunkWrite r =>
    obtain ⟨-, p, n, d, -, hn, hc, ⟨-, rfl⟩ | ⟨c, -, -, rfl⟩⟩ | ⟨-, rfl⟩ := execTxChunkWrite_next h
    · exact .of_wrote hn hc rfl rfl
    · exact .of_wrote hn hc rfl rfl
    · exact .of_unchanged rfl rfl
  | txDrain r =>
    obtain ⟨-, ⟨-, rfl⟩ | ⟨-, p, -, rfl⟩⟩ | ⟨-, rfl⟩ := execTxDrain_next h
    · exact .of_drain rfl rfl
    · exact .of_drain rfl rfl
    · exact .of_unchanged rfl rfl
  | txTrlWrite r =>
    obtain ⟨-, n, d, hn, hc, ⟨-, rfl⟩ | ⟨-, rfl⟩⟩ | ⟨-, rfl⟩ := execTxTrlWrite_next h
    · exact .of_wrote hn hc rfl rfl
    · exact .of_wrote hn hc rfl rfl
    · exact .of_unchanged rfl rfl
  | _ => simp [Instr.isTx] at hi

/-- Only the TX agent and `RESET` write the two logs. -/
theorem exec_wire_of_not_isTx {i : Instr} {s t : State} (hi : i.isTx = false) (hne : i ≠ .reset)
    (h : exec i s = .next t) : t.tx.wire = s.tx.wire ∧ t.txPort = s.txPort := by
  cases i with
  | sendFrame | txCksum | txHdrWrite | txDelayDone | txChunkWrite | txDrain | txTrlWrite => simp [Instr.isTx] at hi
  | rxByte | rxReplay | rxSettle | rxTimeout | wireHeader | wireTrailer | wireStart =>
    obtain ⟨htx, -, hp, -⟩ := exec_rx_frame rfl h
    exact ⟨congrArg TxState.wire htx, hp⟩
  | cksum | hdrEncode | hdrDecode | txStatus | rxStatus =>
    obtain ⟨r, rfl⟩ := exec_read rfl h
    exact ⟨rfl, rfl⟩
  | ckClear u =>
    obtain ⟨-, rfl⟩ | ⟨-, rfl⟩ := execCkClear_next h
    · simp [setAcc_tx]
    · exact ⟨rfl, rfl⟩
  | ckAdd u b =>
    obtain ⟨-, rfl⟩ | ⟨-, rfl⟩ := execCkAdd_next h
    · simp [setAcc_tx]
    · exact ⟨rfl, rfl⟩
  | reset => exact absurd rfl hne

/-- Settles O30: a TX operation makes at most one request, and no other operation but `RESET` touches the logs. -/
theorem wireGrowsByOneRequest : Obligations.WireGrowsByOneRequest := by
  intro i s t h hne
  change OneRequest s t
  cases hi : i.isTx with
  | true => exact exec_tx_oneRequest hi h
  | false =>
    obtain ⟨hw, hp⟩ := exec_wire_of_not_isTx hi hne h
    exact .of_unchanged hw hp

end Sys2Proof.Machine
end

section
/-! PROOFS. The record decoder and the encoder are inverse to each other, and what the decoder rejects (spec/30_encoding.md
R117 to R121; logs 7 and 26). -/

namespace Sys2Proof

/-! ## Operation codes -/

theorem Opcode.ofByte_byte (o : Opcode) : Opcode.ofByte o.byte = some o := by cases o <;> rfl

theorem opcodeTable_code : ∀ e ∈ opcodeTable, e.1 = e.2.byte := by decide

theorem Opcode.ofByte_eq_some {c : Byte} {o : Opcode} : Opcode.ofByte c = some o ↔ c = o.byte := by
  constructor
  · intro h
    obtain ⟨e, he, rfl⟩ := Option.map_eq_some_iff.mp h
    have hc : e.1 = c := by simpa using List.find?_some he
    exact hc.symm.trans (opcodeTable_code e (List.mem_of_find?_eq_some he))
  · rintro rfl
    exact Opcode.ofByte_byte o

theorem decode_byte (o : Opcode) (s : List Byte) : decode (o.byte :: s) = decodeOperands o s := by
  rw [decode, Opcode.ofByte_byte]

theorem decode_reserved {c : Byte} (h : ∀ o : Opcode, c ≠ o.byte) (s : List Byte) :
    decode (c :: s) = .error (.reservedCode c) := by
  have hn : Opcode.ofByte c = none := Option.eq_none_iff_forall_ne_some.mpr fun o ho => h o (Opcode.ofByte_eq_some.mp ho)
  rw [decode, hn]

theorem decode_eq_ok {s : List Byte} {r : Instr × List Byte} (h : decode s = .ok r) :
    ∃ o t, s = Opcode.byte o :: t ∧ decodeOperands o t = .ok r := by
  cases s with
  | nil => simp [decode] at h
  | cons c t =>
    cases ho : Opcode.ofByte c with
    | none => simp [decode, ho] at h
    | some o =>
      obtain rfl := Opcode.ofByte_eq_some.mp ho
      exact ⟨o, t, rfl, (decode_byte o t).symm.trans h⟩

/-! ## Decoding what was encoded -/

@[simp] theorem Parse.use_ok {α β : Type} (a : α) (s : List Byte) (f : α → β) :
    Parse.use (.ok (a, s)) f = .ok (f a, s) := rfl

@[simp] theorem Parse.use_error {α β : Type} (e : DecodeError) (f : α → β) :
    Parse.use (.error e : Parse α) f = .error e := rfl

theorem takeSendFrame_encode (w h f : U16) {p : List Byte} (hp : fitsU32 p) (r : List Byte) :
    takeSendFrame (le16 w ++ le16 h ++ le16 f ++ encodeSized p ++ r) = .ok (.sendFrame w h f p, r) := by
  simp [takeSendFrame, takeSized_encodeSized p r hp]

theorem takeCkAdd_encode (u : CkUnit) (b : Byte) (r : List Byte) :
    takeCkAdd (encodeUnit u ++ [b] ++ r) = .ok (.ckAdd u b, r) := by
  simp [takeCkAdd, takeUnit_encode]

theorem decode_encode {i : Instr} (hw : i.WellFormed) (hp : i.port = .record) (r : List Byte) :
    decode (encode i ++ r) = .ok (i, r) := by
  cases i with
  | sendFrame w h f p => exact takeSendFrame_encode w h f hw r
  | txHdrWrite a | txChunkWrite a | txTrlWrite a => exact congrArg (Parse.use · _) (takeWriteResp_encode a r)
  | txDrain a => exact congrArg (Parse.use · _) (takeDrainResp_encode a r)
  | ckClear u => exact congrArg (Parse.use · _) (takeUnit_encode u r)
  | ckAdd u b => exact takeCkAdd_encode u b r
  | cksum bs => exact congrArg (Parse.use · _) (takeSized_encodeSized bs r hw)
  | hdrEncode h => exact congrArg (Parse.use · _) (takeHeader_encode h r)
  | hdrDecode w => exact congrArg (Parse.use · _) (takeWindow_encode w r)
  | wireHeader | wireTrailer | wireStart => simp [Instr.port] at hp
  | _ => rfl

theorem decodeInput_encode {i : Instr} (hp : i.port = .input) : decodeInput (encode i) = .ok (i, []) := by
  cases i with
  | wireHeader h => exact (congrArg decodeInput (List.append_nil _).symm).trans (decodeInput_wireHeader h [])
  | wireTrailer => exact decodeInput_trailerMarker []
  | wireStart =>
    refine decodeInput_startMarker fun h rest he => ?_
    have hl : 2 = 20 + rest.length := by simpa [encode] using congrArg List.length he
    omega
  | _ => simp [Instr.port] at hp

/-- Settles O1: every operand parser reads back what the encoder wrote, and each wire format is the first block of itself. -/
theorem decodeEncodeAgree : Obligations.DecodeEncodeAgree :=
  ⟨fun _ r hw hp => decode_encode hw hp r, fun _ hp => decodeInput_encode hp⟩

/-! ## Encoding what was decoded -/

theorem Parse.use_eq_ok {α β : Type} {p : Parse α} {f : α → β} {b : β} {r : List Byte}
    (h : p.use f = .ok (b, r)) : ∃ a, p = .ok (a, r) ∧ b = f a := by
  obtain ⟨a, s, hp, hf⟩ := Parse.andThen_eq_ok h
  cases hf
  exact ⟨a, hp, rfl⟩

theorem takeBytes_ok {n : Nat} {s r v : List Byte} (h : takeBytes n s = .ok (v, r)) : s = v ++ r ∧ v.length = n := by
  unfold takeBytes at h
  split at h
  · cases h
    exact ⟨(List.take_append_drop n s).symm, List.length_take_of_le ‹_›⟩
  · simp at h

theorem takeSized_ok {s r v : List Byte} (h : takeSized s = .ok (v, r)) : s = encodeSized v ++ r ∧ fitsU32 v := by
  obtain ⟨n, t, hn, h⟩ := Parse.andThen_eq_ok h
  obtain ⟨rfl, hl⟩ := takeBytes_ok h
  obtain rfl := take32_ok hn
  have hv : fitsU32 v := by rw [fitsU32, hl]; exact n.isLt
  exact ⟨by simp [encodeSized, hl], hv⟩

theorem takeWriteResp_ok {s r : List Byte} {v : WriteResp} (h : takeWriteResp s = .ok (v, r)) :
    s = encodeWriteResp v ++ r := by
  obtain ⟨tag, t, ht, h⟩ := Parse.andThen_eq_ok h
  rw [take8_ok ht]
  split at h
  · subst tag
    obtain ⟨n, hn, rfl⟩ := Parse.use_eq_ok h
    exact congrArg _ (take32_ok hn)
  · split at h
    · subst tag
      cases h
      rfl
    · simp at h

/-- An operand of one byte that is 0 or 1. -/
theorem take8_zero_or_one_ok {α : Type} {s r : List Byte} {x y v : α} {e : Byte → DecodeError}
    (h : ((take8 s).andThen fun b s =>
      if b = 0x00 then .ok (x, s) else if b = 0x01 then .ok (y, s) else .error (e b)) = .ok (v, r)) :
    (v = x ∧ s = 0x00 :: r) ∨ (v = y ∧ s = 0x01 :: r) := by
  obtain ⟨b, t, hb, h⟩ := Parse.andThen_eq_ok h
  rw [take8_ok hb]
  split at h
  · subst b
    cases h
    exact .inl ⟨rfl, rfl⟩
  · split at h
    · subst b
      cases h
      exact .inr ⟨rfl, rfl⟩
    · simp at h

theorem takeDrainResp_ok {s r : List Byte} {v : DrainResp} (h : takeDrainResp s = .ok (v, r)) :
    s = encodeDrainResp v ++ r := by
  obtain ⟨rfl, hs⟩ | ⟨rfl, hs⟩ := take8_zero_or_one_ok h <;> exact hs

theorem takeUnit_ok {s r : List Byte} {v : CkUnit} (h : takeUnit s = .ok (v, r)) : s = encodeUnit v ++ r := by
  obtain ⟨rfl, hs⟩ | ⟨rfl, hs⟩ := take8_zero_or_one_ok h <;> exact hs

theorem takeHeader_ok {s r : List Byte} {v : Header} (h : takeHeader s = .ok (v, r)) : s = encodeHeader v ++ r := by
  obtain ⟨width, s1, h1, h⟩ := Parse.andThen_eq_ok h
  obtain ⟨height, s2, h2, h⟩ := Parse.andThen_eq_ok h
  obtain ⟨dataLength, s3, h3, h⟩ := Parse.andThen_eq_ok h
  obtain ⟨pixelFormat, s4, h4, h⟩ := Parse.andThen_eq_ok h
  obtain ⟨frameId, s5, h5, h⟩ := Parse.andThen_eq_ok h
  obtain ⟨checksum, h6, rfl⟩ := Parse.use_eq_ok h
  rw [take16_ok h1, take16_ok h2, take32_ok h3, take16_ok h4, take16_ok h5, take32_ok h6]
  simp [encodeHeader]

theorem takeWindow_ok {s r : List Byte} {w : Window} (h : takeWindow s = .ok (w, r)) : s = w.toList ++ r := by
  unfold takeWindow at h
  split at h
  · rename_i hw
    cases h
    rw [← window?_some hw, List.take_append_drop]
  · simp at h

theorem takeSendFrame_ok {s r : List Byte} {i : Instr} (h : takeSendFrame s = .ok (i, r)) :
    ∃ w ht f p, i = .sendFrame w ht f p ∧ fitsU32 p ∧ s = le16 w ++ le16 ht ++ le16 f ++ encodeSized p ++ r := by
  obtain ⟨w, s1, h1, h⟩ := Parse.andThen_eq_ok h
  obtain ⟨ht, s2, h2, h⟩ := Parse.andThen_eq_ok h
  obtain ⟨f, s3, h3, h⟩ := Parse.andThen_eq_ok h
  obtain ⟨p, h4, rfl⟩ := Parse.use_eq_ok h
  obtain ⟨hs, hp⟩ := takeSized_ok h4
  refine ⟨w, ht, f, p, rfl, hp, ?_⟩
  rw [take16_ok h1, take16_ok h2, take16_ok h3, hs]
  simp

theorem takeCkAdd_ok {s r : List Byte} {i : Instr} (h : takeCkAdd s = .ok (i, r)) :
    ∃ u b, i = .ckAdd u b ∧ s = encodeUnit u ++ [b] ++ r := by
  obtain ⟨u, t, hu, h⟩ := Parse.andThen_eq_ok h
  obtain ⟨b, hb, rfl⟩ := Parse.use_eq_ok h
  refine ⟨u, b, rfl, ?_⟩
  rw [takeUnit_ok hu, take8_ok hb]
  simp

theorem decodeOperands_ok {o : Opcode} {s r : List Byte} {i : Instr} (h : decodeOperands o s = .ok (i, r)) :
    o.byte :: s = encode i ++ r ∧ i.WellFormed ∧ i.port = .record := by
  cases o with
  | sendFrame =>
    obtain ⟨w, ht, f, p, rfl, hp, rfl⟩ := takeSendFrame_ok h
    exact ⟨rfl, hp, rfl⟩
  | txHdrWrite | txChunkWrite | txTrlWrite =>
    obtain ⟨a, ha, rfl⟩ := Parse.use_eq_ok h
    exact ⟨congrArg _ (takeWriteResp_ok ha), trivial, rfl⟩
  | txDrain =>
    obtain ⟨a, ha, rfl⟩ := Parse.use_eq_ok h
    exact ⟨congrArg _ (takeDrainResp_ok ha), trivial, rfl⟩
  | rxByte =>
    obtain ⟨b, hb, rfl⟩ := Parse.use_eq_ok h
    exact ⟨congrArg _ (take8_ok hb), trivial, rfl⟩
  | ckClear =>
    obtain ⟨u, hu, rfl⟩ := Parse.use_eq_ok h
    exact ⟨congrArg _ (takeUnit_ok hu), trivial, rfl⟩
  | ckAdd =>
    obtain ⟨u, b, rfl, rfl⟩ := takeCkAdd_ok h
    exact ⟨rfl, trivial, rfl⟩
  | cksum =>
    obtain ⟨bs, hb, rfl⟩ := Parse.use_eq_ok h
    obtain ⟨rfl, hl⟩ := takeSized_ok hb
    exact ⟨rfl, hl, rfl⟩
  | hdrEncode =>
    obtain ⟨a, ha, rfl⟩ := Parse.use_eq_ok h
    exact ⟨congrArg _ (takeHeader_ok ha), trivial, rfl⟩
  | hdrDecode =>
    obtain ⟨w, hw, rfl⟩ := Parse.use_eq_ok h
    exact ⟨congrArg _ (takeWindow_ok hw), trivial, rfl⟩
  | txCksum | txDelayDone | rxReplay | rxSettle | rxTimeout | txStatus | rxStatus | reset =>
    cases h
    exact ⟨rfl, trivial, rfl⟩

/-- Settles O2: the code byte is that of the operation named, and every operand parser takes exactly the operand's encoding. -/
theorem decodedRecordIsItsEncoding : Obligations.DecodedRecordIsItsEncoding := by
  intro s i r h
  obtain ⟨o, t, rfl, ho⟩ := decode_eq_ok h
  exact decodeOperands_ok ho

/-! ## A record that is cut short

No parser's verdict but "too short" depends on bytes it has not read: more input changes nothing but the rest. So a proper
prefix of a record that decodes can only be too short. -/

/-- A parser's answer with `t` after the bytes it left. -/
def Parse.followedBy {α : Type} (t : List Byte) : Parse α → Parse α
  | .ok (a, r) => .ok (a, r ++ t)
  | .error e => .error e

/-- Bytes after its input leave the parser's answer as it is, unless that input was too short for it. -/
def ReadsOnlyItsOwn {α : Type} (p : List Byte → Parse α) : Prop :=
  ∀ s t, p s ≠ .error .shortRecord → p (s ++ t) = (p s).followedBy t

namespace ReadsOnlyItsOwn

variable {α β : Type} {p q : List Byte → Parse α}

theorem pure (a : α) : ReadsOnlyItsOwn fun s => .ok (a, s) := fun _ _ _ => rfl

theorem fail (e : DecodeError) : ReadsOnlyItsOwn fun _ => (.error e : Parse α) := fun _ _ _ => rfl

theorem ite (c : Prop) [Decidable c] (hp : ReadsOnlyItsOwn p) (hq : ReadsOnlyItsOwn q) :
    ReadsOnlyItsOwn fun s => if c then p s else q s := by
  by_cases hc : c
  · simpa only [hc, if_true] using hp
  · simpa only [hc, if_false] using hq

theorem andThen {f : α → List Byte → Parse β} (hp : ReadsOnlyItsOwn p) (hf : ∀ a, ReadsOnlyItsOwn (f a)) :
    ReadsOnlyItsOwn fun s => (p s).andThen f := by
  intro s t h
  cases hs : p s with
  | ok ar =>
    obtain ⟨a, r⟩ := ar
    simp only [hs, Parse.andThen_ok] at h
    simp only [hp s t (by simp [hs]), hs, Parse.followedBy, Parse.andThen_ok]
    exact hf a r t h
  | error e =>
    simp only [hs, Parse.andThen_error] at h
    simp only [hp s t (by simpa [hs] using h), hs, Parse.followedBy, Parse.andThen_error]

theorem use (f : α → β) (hp : ReadsOnlyItsOwn p) : ReadsOnlyItsOwn fun s => (p s).use f :=
  hp.andThen fun a => pure (f a)

end ReadsOnlyItsOwn

theorem take8_readsOnlyItsOwn : ReadsOnlyItsOwn take8
  | [], _, h => absurd rfl h
  | _ :: _, _, _ => rfl

theorem take16_readsOnlyItsOwn : ReadsOnlyItsOwn take16
  | [], _, h | [_], _, h => absurd rfl h
  | _ :: _ :: _, _, _ => rfl

theorem take32_readsOnlyItsOwn : ReadsOnlyItsOwn take32
  | [], _, h | [_], _, h | [_, _], _, h | [_, _, _], _, h => absurd rfl h
  | _ :: _ :: _ :: _ :: _, _, _ => rfl

theorem takeBytes_readsOnlyItsOwn (n : Nat) : ReadsOnlyItsOwn (takeBytes n) := by
  intro s t h
  by_cases hn : n ≤ s.length
  · have hn' : n ≤ s.length + t.length := by omega
    simp [takeBytes, hn, hn', Parse.followedBy, List.take_append_of_le_length, List.drop_append_of_le_length]
  · exact absurd (if_neg hn) h

theorem takeWindow_readsOnlyItsOwn : ReadsOnlyItsOwn takeWindow := by
  intro s t h
  cases hw : window? (s.take hdrLen) with
  | none => exact absurd (by rw [takeWindow, hw]) h
  | some w =>
    have hs : s = w.toList ++ s.drop hdrLen := by rw [← window?_some hw, List.take_append_drop]
    rw [hs, List.append_assoc, takeWindow_encode, takeWindow_encode, Parse.followedBy]

theorem takeSized_readsOnlyItsOwn : ReadsOnlyItsOwn takeSized :=
  take32_readsOnlyItsOwn.andThen fun n => takeBytes_readsOnlyItsOwn n.toNat

theorem takeWriteResp_readsOnlyItsOwn : ReadsOnlyItsOwn takeWriteResp :=
  take8_readsOnlyItsOwn.andThen fun _ => .ite _ (take32_readsOnlyItsOwn.use _) (.ite _ (.pure _) (.fail _))

theorem takeDrainResp_readsOnlyItsOwn : ReadsOnlyItsOwn takeDrainResp :=
  take8_readsOnlyItsOwn.andThen fun _ => .ite _ (.pure _) (.ite _ (.pure _) (.fail _))

theorem takeUnit_readsOnlyItsOwn : ReadsOnlyItsOwn takeUnit :=
  take8_readsOnlyItsOwn.andThen fun _ => .ite _ (.pure _) (.ite _ (.pure _) (.fail _))

theorem takeHeader_readsOnlyItsOwn : ReadsOnlyItsOwn takeHeader :=
  take16_readsOnlyItsOwn.andThen fun _ => take16_readsOnlyItsOwn.andThen fun _ =>
    take32_readsOnlyItsOwn.andThen fun _ => take16_readsOnlyItsOwn.andThen fun _ =>
    take16_readsOnlyItsOwn.andThen fun _ => take32_readsOnlyItsOwn.use _

theorem takeSendFrame_readsOnlyItsOwn : ReadsOnlyItsOwn takeSendFrame :=
  take16_readsOnlyItsOwn.andThen fun _ => take16_readsOnlyItsOwn.andThen fun _ =>
    take16_readsOnlyItsOwn.andThen fun _ => takeSized_readsOnlyItsOwn.use _

theorem takeCkAdd_readsOnlyItsOwn : ReadsOnlyItsOwn takeCkAdd :=
  takeUnit_readsOnlyItsOwn.andThen fun _ => take8_readsOnlyItsOwn.use _

theorem decodeOperands_readsOnlyItsOwn (o : Opcode) : ReadsOnlyItsOwn (decodeOperands o) := by
  cases o with
  | sendFrame => exact takeSendFrame_readsOnlyItsOwn
  | txHdrWrite | txChunkWrite | txTrlWrite => exact takeWriteResp_readsOnlyItsOwn.use _
  | txDrain => exact takeDrainResp_readsOnlyItsOwn.use _
  | rxByte => exact take8_readsOnlyItsOwn.use _
  | ckClear => exact takeUnit_readsOnlyItsOwn.use _
  | ckAdd => exact takeCkAdd_readsOnlyItsOwn
  | cksum => exact takeSized_readsOnlyItsOwn.use _
  | hdrEncode => exact takeHeader_readsOnlyItsOwn.use _
  | hdrDecode => exact takeWindow_readsOnlyItsOwn.use _
  | txCksum | txDelayDone | rxReplay | rxSettle | rxTimeout | txStatus | rxStatus | reset => exact .pure _

theorem decode_readsOnlyItsOwn : ReadsOnlyItsOwn decode
  | [], _, h => absurd rfl h
  | c :: s, t, h => by
    rw [List.cons_append]
    by_cases hc : ∃ o, c = Opcode.byte o
    · obtain ⟨o, rfl⟩ := hc
      rw [decode_byte] at h
      rw [decode_byte, decode_byte]
      exact decodeOperands_readsOnlyItsOwn o s t h
    · rw [not_exists] at hc
      rw [decode_reserved hc, decode_reserved hc, Parse.followedBy]

/-- A verdict on the prefix other than "too short" would be the verdict on the record, which has no byte left over. -/
theorem decode_take_encode {i : Instr} (hw : i.WellFormed) (hp : i.port = .record) {n : Nat}
    (hn : n < (encode i).length) : decode ((encode i).take n) = .error .shortRecord := by
  by_contra hs
  have hd : decode (encode i) = .ok (i, []) := by simpa using decode_encode hw hp []
  have hx := decode_readsOnlyItsOwn _ ((encode i).drop n) hs
  rw [List.take_append_drop, hd] at hx
  cases ht : decode ((encode i).take n) with
  | error e => simp [ht, Parse.followedBy] at hx
  | ok jr =>
    obtain ⟨j, r⟩ := jr
    have hr : [] = r ++ (encode i).drop n := by
      rw [ht] at hx
      exact congrArg Prod.snd (Except.ok.inj hx)
    have hl : (encode i).length ≤ n := List.drop_eq_nil_iff.mp (List.append_eq_nil_iff.mp hr.symm).2
    omega

/-! ## What is rejected (R120) -/

theorem takeWriteResp_badTag {tag : Byte} (h0 : tag ≠ 0x00) (h1 : tag ≠ 0x01) (s : List Byte) :
    takeWriteResp (tag :: s) = .error (.badWriteTag tag) := by
  rw [takeWriteResp, take8_cons, Parse.andThen_ok, if_neg h0, if_neg h1]

theorem takeDrainResp_badByte {b : Byte} (h0 : b ≠ 0x00) (h1 : b ≠ 0x01) (s : List Byte) :
    takeDrainResp (b :: s) = .error (.badDrainByte b) := by
  rw [takeDrainResp, take8_cons, Parse.andThen_ok, if_neg h0, if_neg h1]

theorem takeUnit_badByte {u : Byte} (h0 : u ≠ 0x00) (h1 : u ≠ 0x01) (s : List Byte) :
    takeUnit (u :: s) = .error (.badUnit u) := by
  rw [takeUnit, take8_cons, Parse.andThen_ok, if_neg h0, if_neg h1]

/-- Settles O3: no operation has a reserved code, each operand parser rejects the bytes it does not admit, and a proper prefix
of a record is too short. -/
theorem invalidRecordsRejected : Obligations.InvalidRecordsRejected := by
  refine ⟨fun c s hc => ?code, fun c tag s hc h0 h1 => ?tag, fun b s h0 h1 => ?drain, fun c u s hc h0 h1 => ?unit,
    fun i n hw hp hn => decode_take_encode hw hp hn⟩
  case code =>
    refine decode_reserved (fun o ho => ?_) s
    subst ho
    cases o <;> simp [Opcode.byte] at hc
  case tag =>
    have ht := takeWriteResp_badTag h0 h1 s
    rcases hc with rfl | rfl | rfl <;> exact congrArg (Parse.use · _) ht
  case drain => exact congrArg (Parse.use · _) (takeDrainResp_badByte h0 h1 s)
  case unit =>
    have hu := takeUnit_badByte h0 h1 s
    rcases hc with rfl | rfl
    · exact congrArg (Parse.use · _) hu
    · change takeCkAdd (u :: s) = _
      rw [takeCkAdd, hu, Parse.andThen_error]

/-- Settles O4: each byte string is decoded by evaluating the decoder on it. -/
theorem specRecordsDecode : Obligations.SpecRecordsDecode :=
  ⟨rfl, rfl, rfl, rfl, rfl, rfl, rfl, rfl, rfl, rfl, rfl⟩

end Sys2Proof
end

section
/-! PROOFS. The header as one 160-bit little-endian integer (spec/30_encoding.md R111; spec/20_memory.md R82). -/

namespace Sys2Proof

/-- A byte sequence as one little-endian integer (R82). -/
def leNat (s : List Byte) : Nat := s.foldr (fun b n => b.toNat + 256 * n) 0

theorem leNat_eq_ofDigits (s : List Byte) : leNat s = Nat.ofDigits 256 (s.map BitVec.toNat) := by
  simp [leNat, Nat.ofDigits_eq_foldr, List.foldr_map]

/-- The bits of `n` bytes from byte `o` on are those bytes as an integer. -/
theorem leNat_div_mod (s : List Byte) (o n : Nat) :
    leNat s / 2 ^ (8 * o) % 2 ^ (8 * n) = leNat ((s.drop o).take n) := by
  have hb (t : List Byte) : ∀ d ∈ t.map BitVec.toNat, d < 256 := by
    intro d hd
    obtain ⟨b, -, rfl⟩ := List.mem_map.mp hd
    exact b.isLt
  rw [pow_mul, pow_mul, show 2 ^ 8 = 256 from rfl, leNat_eq_ofDigits, leNat_eq_ofDigits, List.map_take, List.map_drop]
  rw [Nat.ofDigits_div_pow_eq_ofDigits_drop o (by decide) _ (hb s), ← List.map_drop]
  exact Nat.ofDigits_mod_pow_eq_ofDigits_take n (by decide) _ (hb _)

theorem u16le_toNat (w : Window) (o : Nat) (h : o + 1 < hdrLen) :
    (u16le w o h).toNat = leNat w.toList / 2 ^ (8 * o) % 2 ^ 16 := by
  rw [leNat_div_mod w.toList o 2, List.drop_eq_getElem_cons (by simp; omega), List.drop_eq_getElem_cons (by simp; omega)]
  simp [u16le, u16of_toNat, leNat]

theorem u32le_toNat (w : Window) (o : Nat) (h : o + 3 < hdrLen) :
    (u32le w o h).toNat = leNat w.toList / 2 ^ (8 * o) % 2 ^ 32 := by
  rw [leNat_div_mod w.toList o 4, List.drop_eq_getElem_cons (by simp; omega), List.drop_eq_getElem_cons (by simp; omega),
    List.drop_eq_getElem_cons (by simp; omega), List.drop_eq_getElem_cons (by simp; omega)]
  simp [u32le, u32of_toNat, leNat, Nat.add_assoc]
  omega

/-- MASK keeps the low 16 bits and the 16 bits from bit 144 on, where MATCH has the two markers. -/
theorem and_mask_eq_match_iff (H : Nat) :
    H &&& 0xFFFF00000000000000000000000000000000FFFF = 0x55AA00000000000000000000000000000000AA55 ↔
      H % 2 ^ 16 = startMarker.toNat ∧ H / 2 ^ 144 % 2 ^ 16 = endMarker.toNat := by
  have hlo : (H &&& 0xFFFF00000000000000000000000000000000FFFF) % 2 ^ 144 = H % 2 ^ 16 := by
    calc (H &&& 0xFFFF00000000000000000000000000000000FFFF) % 2 ^ 144
      _ = H % 2 ^ 144 &&& 2 ^ 16 - 1 := Nat.and_mod_two_pow
      _ = H % 2 ^ 16 := by rw [Nat.and_two_pow_sub_one_eq_mod]; omega
  have hhi : (H &&& 0xFFFF00000000000000000000000000000000FFFF) / 2 ^ 144 = H / 2 ^ 144 % 2 ^ 16 := by
    calc (H &&& 0xFFFF00000000000000000000000000000000FFFF) / 2 ^ 144
      _ = H / 2 ^ 144 &&& 2 ^ 16 - 1 := Nat.and_div_two_pow
      _ = H / 2 ^ 144 % 2 ^ 16 := Nat.and_two_pow_sub_one_eq_mod ..
  have hs : startMarker.toNat = 0xAA55 := rfl
  have he : endMarker.toNat = 0x55AA := rfl
  rw [← hlo, ← hhi, hs, he]
  omega

theorem markersGood_iff_mask (w : Window) : markersGood w = true ↔
    leNat w.toList &&& 0xFFFF00000000000000000000000000000000FFFF = 0x55AA00000000000000000000000000000000AA55 := by
  have hs : (u16le w startOffset).toNat = leNat w.toList % 2 ^ 16 := by simpa using u16le_toNat w 0 (by decide)
  have he : (u16le w endOffset).toNat = leNat w.toList / 2 ^ 144 % 2 ^ 16 := u16le_toNat w 18 (by decide)
  rw [and_mask_eq_match_iff, markersGood_iff, ← hs, ← he, BitVec.toNat_inj, BitVec.toNat_inj]

/-- Settles O19: each field is the bits of its bytes, and so is each marker, which MASK picks out. -/
theorem headerAsInteger : Obligations.HeaderAsInteger := fun w =>
  ⟨u16le_toNat w widthOffset _, u16le_toNat w heightOffset _, u32le_toNat w dataLengthOffset _,
    u16le_toNat w pixelFormatOffset _, u16le_toNat w frameIdOffset _, u32le_toNat w checksumOffset _,
    markersGood_iff_mask w⟩

end Sys2Proof
end

section
/-! PROOFS. A record that is taken at once (logs 1, 2, 3 and 26). -/

namespace Sys2Proof.Machine

theorem takeable_of_overtakes_none {i : Instr} {s : State} (he : enabled i s = true)
    (hh : ∀ h ∈ s.held, sameOperation i h = false) (hin : i.opcode = some .rxByte → s.rxIn = []) :
    takeable i s = true := by
  have hany : s.held.any (sameOperation i) = false := List.any_eq_false.mpr fun h hm => by simp [hh h hm]
  by_cases ho : i.opcode = some .rxByte
  · simp [takeable, he, hany, hin ho]
  · simp [takeable, he, hany, ho]

theorem nextOp_takeable {s : State} {i : Instr} {rest : List Byte} (hd : decode s.trace = .ok (i, rest))
    (ht : takeable i s = true) : nextOp s = .ok (some (i, { s with trace := rest })) := by
  cases hs : s.trace with
  | nil => simp [hs, decode] at hd
  | cons b r =>
    rw [hs] at hd
    simp [nextOp, hs, hd, ht]

/-- Settles O5: such a record is takeable, so it is what `nextOp` chooses. -/
theorem stepRunsDecodedInstruction : Obligations.StepRunsDecodedInstruction :=
  fun _ _ _ _ hd he hh hin => step_of_nextOp (nextOp_takeable hd (takeable_of_overtakes_none he hh hin))

end Sys2Proof.Machine
end

section
/-! PROOFS. What the three wire formats do to a receiver that expects them (spec/30_encoding.md R110, R113, R115;
spec/44_frame_receiver.md R232 to R237; logs 7 and 12). -/

namespace Sys2Proof.Machine

/-! ## The first byte of a block, by the receiver's state (R231) -/

section
variable {b : Byte} {r : List Byte} {s : State} {rx : RxState}

theorem rxReady_of_takesBytes (hb : rx.state.takesBytes = true) (hq : rx.replay = []) : rxReady rx = true := by
  simp [rxReady, hb, hq]

theorem feed_cons (hr : rxReady s.rx = true)
    (hc : rxConsume s.params b { s.rx with input := s.rx.input ++ [b] } = .ok rx) :
    feed (b :: r) s = feed r (s.setRx rx) := by
  rw [feed, if_pos hr, takeByte, hc, liftRx]

theorem feed_scanning (hs : s.rx.state = .scanning) (hq : s.rx.replay = [])
    (hc : scanStep b { s.rx with input := s.rx.input ++ [b] } = .ok rx) : feed (b :: r) s = feed r (s.setRx rx) :=
  feed_cons (rxReady_of_takesBytes (by rw [hs]; rfl) hq) (by simpa only [rxConsume, hs] using hc)

theorem feed_headerPartial (hs : s.rx.state = .headerPartial) (hq : s.rx.replay = [])
    (hc : headerStep s.params b { s.rx with input := s.rx.input ++ [b] } = rx) :
    feed (b :: r) s = feed r (s.setRx rx) :=
  feed_cons (rxReady_of_takesBytes (by rw [hs]; rfl) hq) (by simpa only [rxConsume, hs] using congrArg Except.ok hc)

theorem feed_trailerPartial (hs : s.rx.state = .trailerPartial) (hq : s.rx.replay = [])
    (hc : trailerStep b { s.rx with input := s.rx.input ++ [b] } = .ok rx) : feed (b :: r) s = feed r (s.setRx rx) :=
  feed_cons (rxReady_of_takesBytes (by rw [hs]; rfl) hq) (by simpa only [rxConsume, hs] using hc)

end

/-! ## A start marker while scanning (R232) -/

/-- The marker's first byte is not its second: it ends no marker and is remembered. -/
theorem scanStep_firstByte {rx : RxState} (hp : rx.prevValid = true → ∃ q, rx.prev = some q) :
    scanStep 0x55 rx = .ok (rx.remember 0x55) := by
  unfold scanStep
  split
  · obtain ⟨q, hq⟩ := hp ‹_›
    simp [hq, le16_startMarker]
  · rfl

theorem scanStep_secondByte {rx : RxState} (hv : rx.prevValid = true) (hp : rx.prev = some 0x55) :
    scanStep 0xAA rx = .ok (openWindow rx) := by
  simp [scanStep, hv, hp, le16_startMarker]

theorem feed_startMarker {s : State} {r : List Byte} (hs : s.rx.state = .scanning) (hq : s.rx.replay = [])
    (hp : s.rx.prevValid = true → ∃ q, s.rx.prev = some q) :
    feed (le16 startMarker ++ r) s =
      feed r (s.setRx (openWindow { s.rx with input := s.rx.input ++ le16 startMarker })) := by
  rw [le16_startMarker]
  calc feed (0x55 :: 0xAA :: r) s
    _ = feed (0xAA :: r) (s.setRx (.remember 0x55 { s.rx with input := s.rx.input ++ [0x55] })) :=
      feed_scanning hs hq (scanStep_firstByte hp)
    _ = feed r (s.setRx (openWindow { s.rx with input := s.rx.input ++ [0x55] ++ [0xAA] })) :=
      feed_scanning hs hq (scanStep_secondByte rfl rfl)
    _ = feed r (s.setRx (openWindow { s.rx with input := s.rx.input ++ [0x55, 0xAA] })) := by
      rw [List.append_assoc, List.singleton_append]

/-! ## The header after it (R233, R234) -/

theorem headerStep_not_full {p : Params} {b : Byte} {rx : RxState} (hl : (rx.win ++ [b]).length < hdrLen) :
    headerStep p b rx = { rx with win := rx.win ++ [b] } := by
  obtain ⟨-, h⟩ | ⟨w, hw, -⟩ := headerStep_cases p b rx
  · exact h
  · rw [hw, Vector.length_toList] at hl
    exact absurd hl (Nat.lt_irrefl _)

theorem hdrDecode_hdrEncode {m : U32} {h : Header} (hm : h.dataLength ≤ m) : hdrDecode m (hdrEncode h) = .ok h := by
  simp [hdrDecode, markersGood_hdrEncode, hdrFields_hdrEncode, hm]

theorem headerStep_full {p : Params} {b : Byte} {rx : RxState} {h : Header} (hw : rx.win ++ [b] = hdrBytes h)
    (hm : h.dataLength ≤ p.maxPayloadLen) :
    headerStep p b rx = headerOk h { rx with win := hdrBytes h } := by
  rw [headerStep, hw, ← hdrEncode_toList, window?_toList]
  simp only [hdrDecode_hdrEncode hm]

/-- Bytes that do not fill the window are gathered in it. -/
theorem feed_window : ∀ (bs : List Byte) {r : List Byte} {s : State}, s.rx.state = .headerPartial → s.rx.replay = [] →
    s.rx.win.length + bs.length < hdrLen →
    feed (bs ++ r) s = feed r (s.setRx { s.rx with win := s.rx.win ++ bs, input := s.rx.input ++ bs })
  | [], r, s, _, _, _ => by
    rw [List.append_nil, List.append_nil]
    rfl
  | b :: bs, r, s, hs, hq, hl => by
    rw [List.length_cons] at hl
    have hb : (s.rx.win ++ [b]).length < hdrLen := by rw [List.length_append, List.length_singleton]; omega
    have hbs : (s.rx.win ++ [b]).length + bs.length < hdrLen := by rw [List.length_append, List.length_singleton]; omega
    calc feed (b :: (bs ++ r)) s
      _ = feed (bs ++ r) (s.setRx { s.rx with win := s.rx.win ++ [b], input := s.rx.input ++ [b] }) :=
        feed_headerPartial hs hq (headerStep_not_full hb)
      _ = feed r (s.setRx { s.rx with win := s.rx.win ++ [b] ++ bs, input := s.rx.input ++ [b] ++ bs }) :=
        feed_window bs hs hq hbs
      _ = feed r (s.setRx { s.rx with win := s.rx.win ++ b :: bs, input := s.rx.input ++ b :: bs }) := by
        rw [List.append_assoc, List.append_assoc, List.singleton_append]

/-- A window takes the bytes that make it a whole header. -/
theorem feed_header {s : State} {h : Header} {bs : List Byte} {b : Byte} (hs : s.rx.state = .headerPartial)
    (hq : s.rx.replay = []) (hw : s.rx.win ++ bs ++ [b] = hdrBytes h) (hm : h.dataLength ≤ s.params.maxPayloadLen) :
    feed (bs ++ [b]) s = .next (s.setRx (headerOk h { s.rx with input := s.rx.input ++ (bs ++ [b]) })) := by
  have hl : s.rx.win.length + bs.length + 1 = hdrLen := by
    simpa [hdrLen, Nat.add_assoc] using congrArg List.length hw
  calc feed (bs ++ [b]) s
    _ = feed [b] (s.setRx { s.rx with win := s.rx.win ++ bs, input := s.rx.input ++ bs }) :=
      feed_window bs hs hq (by omega)
    _ = feed [] (s.setRx (headerOk h { s.rx with win := hdrBytes h, input := s.rx.input ++ bs ++ [b] })) :=
      feed_headerPartial hs hq (headerStep_full hw hm)
    _ = .next (s.setRx (headerOk h { s.rx with input := s.rx.input ++ (bs ++ [b]) })) := by
      rw [List.append_assoc]
      rfl

/-- A header opens with the start marker; its last byte is the one that fills the window. -/
theorem hdrBytes_startMarker_last (h : Header) : ∃ bs b, hdrBytes h = le16 startMarker ++ bs ++ [b] :=
  ⟨le16 h.width ++ le16 h.height ++ le32 h.dataLength ++ le16 h.pixelFormat ++ le16 h.frameId ++ le32 h.checksum ++
    [0xAA], 0x55, rfl⟩

theorem feed_hdrBytes {s : State} {h : Header} (hs : s.rx.state = .scanning) (hq : s.rx.replay = [])
    (hp : s.rx.prevValid = true → ∃ q, s.rx.prev = some q) (hm : h.dataLength ≤ s.params.maxPayloadLen) :
    feed (hdrBytes h) s =
      .next (s.setRx (headerOk h (openWindow { s.rx with input := s.rx.input ++ hdrBytes h }))) := by
  obtain ⟨bs, b, hb⟩ := hdrBytes_startMarker_last h
  rw [hb, List.append_assoc]
  calc feed (le16 startMarker ++ (bs ++ [b])) s
    _ = feed (bs ++ [b]) (s.setRx (openWindow { s.rx with input := s.rx.input ++ le16 startMarker })) :=
      feed_startMarker hs hq hp
    _ = .next (s.setRx (headerOk h
          (openWindow { s.rx with input := s.rx.input ++ le16 startMarker ++ (bs ++ [b]) }))) :=
      feed_header rfl hq hb.symm hm
    _ = .next (s.setRx (headerOk h
          (openWindow { s.rx with input := s.rx.input ++ (le16 startMarker ++ (bs ++ [b])) }))) := by
      rw [List.append_assoc]

/-! ## A trailer after the payload (R237) -/

theorem trailerStep_firstByte {b : Byte} {rx : RxState} (ht : rx.trl = []) :
    trailerStep b rx = .ok { rx with trl := [b] } := by
  rw [trailerStep, ht]
  rfl

theorem trailerStep_secondByte {rx : RxState} (ht : rx.trl = [0xAD]) :
    trailerStep 0xDE rx = .ok { rx with trl := [0xAD, 0xDE], state := .complete } := by
  rw [trailerStep, ht]
  rfl

theorem feed_trailerMarker {s : State} (hs : s.rx.state = .trailerPartial) (hq : s.rx.replay = []) (ht : s.rx.trl = []) :
    feed (le16 trailerMarker) s = .next (s.setRx
      { s.rx with input := s.rx.input ++ [0xAD, 0xDE], trl := [0xAD, 0xDE], state := .complete }) := by
  rw [le16_trailerMarker]
  calc feed [0xAD, 0xDE] s
    _ = feed [0xDE] (s.setRx { s.rx with input := s.rx.input ++ [0xAD], trl := [0xAD] }) :=
      feed_trailerPartial hs hq (trailerStep_firstByte ht)
    _ = feed [] (s.setRx
          { s.rx with input := s.rx.input ++ [0xAD] ++ [0xDE], trl := [0xAD, 0xDE], state := .complete }) :=
      feed_trailerPartial hs hq (trailerStep_secondByte rfl)
    _ = .next (s.setRx
          { s.rx with input := s.rx.input ++ [0xAD, 0xDE], trl := [0xAD, 0xDE], state := .complete }) := by
      rw [List.append_assoc]
      rfl

/-- Settles O43: a receiver in each of these states is ready, so it is fed the format's bytes. -/
theorem wireFormatsAdvanceReceiver : Obligations.WireFormatsAdvanceReceiver := by
  intro s h hi hq
  have hr (hb : s.rx.state.takesBytes = true) : rxReady s.rx = true := rxReady_of_takesBytes hb hq
  refine ⟨fun hs => ?start, fun hs hm => ?header, fun hs ht => ?trailer⟩
  case start =>
    rw [exec_input_of_ready (i := .wireStart) rfl (hr (by rw [hs]; rfl))]
    exact feed_startMarker (r := []) hs hq hi.prev_some
  case header =>
    have hz : h.dataLength.toNat = 0 ↔ h.dataLength = 0 := by simp [BitVec.toNat_eq]
    rw [exec_input_of_ready (i := .wireHeader h) rfl (hr (by rw [hs]; rfl)), feed_hdrBytes hs hq hi.prev_some hm]
    simp only [hz]
    rfl
  case trailer =>
    rw [exec_input_of_ready (i := .wireTrailer) rfl (hr (by rw [hs]; rfl))]
    exact feed_trailerMarker hs hq ht

end Sys2Proof.Machine
end

section
/-! PROOFS. The checksum unit (spec/40_checksum.md R140 to R146; logs 2, 5, 13, 22, 26). -/

namespace Sys2Proof.Machine

/-! ## The checksum as a sum of byte values (R141 to R145) -/

theorem ckAddByte_eq_ofNat (v : U32) (b : Byte) : ckAddByte v b = BitVec.ofNat 32 (v.toNat + b.toNat) := by
  simp [ckAddByte, zext32, BitVec.toNat_eq]

/-- The sum of the byte values without the modulus of R142. -/
def byteSum (s : List Byte) : Nat := (s.map BitVec.toNat).sum

@[simp] theorem byteSum_nil : byteSum [] = 0 := rfl

@[simp] theorem byteSum_cons (b : Byte) (s : List Byte) : byteSum (b :: s) = b.toNat + byteSum s := by
  simp [byteSum]

@[simp] theorem byteSum_append (s t : List Byte) : byteSum (s ++ t) = byteSum s + byteSum t := by
  simp [byteSum]

theorem byteSum_perm {s t : List Byte} (h : s.Perm t) : byteSum s = byteSum t :=
  (h.map BitVec.toNat).sum_eq

theorem cksum_eq_byteSum (s : List Byte) : cksum s = BitVec.ofNat 32 (byteSum s) := by
  induction s using List.reverseRecOn with
  | nil => rfl
  | append_singleton s b ih => simp [cksum_snoc, ckAddByte_eq_ofNat, ih, BitVec.toNat_eq]

theorem cksum_perm {s t : List Byte} (h : s.Perm t) : cksum s = cksum t := by
  rw [cksum_eq_byteSum, cksum_eq_byteSum, byteSum_perm h]

/-- Two byte values differ by less than 2^32, so the modulus hides no difference between them. -/
theorem cksum_changed_byte_ne (before after : List Byte) {a b : Byte} (h : a ≠ b) :
    cksum (before ++ a :: after) ≠ cksum (before ++ b :: after) := by
  have hab : a.toNat ≠ b.toNat := mt BitVec.eq_of_toNat_eq h
  simp only [cksum_eq_byteSum, byteSum_append, byteSum_cons, ne_eq, BitVec.toNat_eq, BitVec.toNat_ofNat]
  omega

theorem cksum_carried_unit (before between after : List Byte) {a b : Byte} (ha : a.toNat < 255) (hb : 0 < b.toNat) :
    cksum (before ++ a :: between ++ b :: after) = cksum (before ++ (a + 1) :: between ++ (b - 1) :: after) := by
  have ha1 : (a + 1).toNat = a.toNat + 1 := by bv_omega
  have hb1 : (b - 1).toNat = b.toNat - 1 := by bv_omega
  simp only [cksum_eq_byteSum, byteSum_append, byteSum_cons, ha1, hb1]
  congr 1
  omega

theorem exec_cksum (bytes : List Byte) (s : State) :
    exec (.cksum bytes) s = .next (s.answer (.word (BitVec.ofNat 32 (byteSum bytes)))) := by
  rw [← cksum_eq_byteSum]
  exact execCksum_eq bytes s

/-- Settles O12: the fold of R142 is the sum of the byte values. -/
theorem checksumIsSumOfBytes : Obligations.ChecksumIsSumOfBytes := fun bytes s =>
  ⟨cksum_eq_byteSum bytes, exec_cksum bytes s⟩

/-- Settles O13. -/
theorem checksumIgnoresOrder : Obligations.ChecksumIgnoresOrder := fun _ _ => cksum_perm

/-- Settles O14. -/
theorem oneByteChangeIsDetected : Obligations.OneByteChangeIsDetected :=
  ⟨fun before after _ _ => cksum_changed_byte_ne before after,
    fun before between after _ _ => cksum_carried_unit before between after⟩

/-! ## The micro-operations (R140, R141; log 13) -/

theorem sumFree_tx_iff {s : State} : sumFree .tx s = true ↔ s.tx.state = .idle ∨ s.tx.state = .checksum := by
  cases h : s.tx.state <;> simp [sumFree, TxSt.sumFree, h]

theorem sumFree_rx_iff {s : State} :
    sumFree .rx s = true ↔ s.rx.state = .scanning ∨ s.rx.state = .headerPartial := by
  cases h : s.rx.state <;> simp [sumFree, RxSt.sumFree, h]

section
variable {u : CkUnit} {s : State}

theorem exec_ckClear_of_free (h : sumFree u s = true) : exec (.ckClear u) s = .next (s.setAcc u 0) :=
  guarded_of_enabled h

theorem exec_ckAdd_of_free (h : sumFree u s = true) (b : Byte) :
    exec (.ckAdd u b) s = .next (s.setAcc u (ckAddByte (s.acc u) b)) :=
  guarded_of_enabled h

theorem exec_ckClear_of_not_free (h : sumFree u s = false) : exec (.ckClear u) s = .next (s.hold (.ckClear u)) :=
  guarded_of_disabled h

theorem exec_ckAdd_of_not_free (h : sumFree u s = false) (b : Byte) :
    exec (.ckAdd u b) s = .next (s.hold (.ckAdd u b)) :=
  guarded_of_disabled h

end

/-- Settles O11: the equations of the two operations on the unit `u`, and their records decoded. -/
theorem accumulatorMicroOperations : Obligations.AccumulatorMicroOperations := by
  intro s b rest
  have hadd {u : CkUnit} (h : sumFree u s = true) :
      exec (.ckAdd u b) s = .next (s.setAcc u (BitVec.ofNat 32 ((s.acc u).toNat + b.toNat))) := by
    rw [exec_ckAdd_of_free h, ckAddByte_eq_ofNat]
  have hheld {u : CkUnit} (h : ¬ sumFree u s = true) :
      exec (.ckClear u) s = .next (s.hold (.ckClear u)) ∧ exec (.ckAdd u b) s = .next (s.hold (.ckAdd u b)) :=
    have h' := Bool.eq_false_iff.mpr h
    ⟨exec_ckClear_of_not_free h', exec_ckAdd_of_not_free h' b⟩
  refine ⟨fun h => ?txFree, fun h => ?rxFree, fun hi hc => ?txHeld, fun hs hp => ?rxHeld, rfl, rfl, rfl, rfl⟩
  case txFree => exact ⟨exec_ckClear_of_free (sumFree_tx_iff.mpr h), hadd (sumFree_tx_iff.mpr h)⟩
  case rxFree => exact ⟨exec_ckClear_of_free (sumFree_rx_iff.mpr h), hadd (sumFree_rx_iff.mpr h)⟩
  case txHeld => exact hheld (mt sumFree_tx_iff.mp (not_or.mpr ⟨hi, hc⟩))
  case rxHeld => exact hheld (mt sumFree_rx_iff.mp (not_or.mpr ⟨hs, hp⟩))

/-! ## The incremental checksum (R146) -/

@[simp] theorem setAcc_setAcc (u : CkUnit) (v w : U32) (s : State) : (s.setAcc u v).setAcc u w = s.setAcc u w := by
  cases u <;> rfl

@[simp] theorem setAcc_acc (u : CkUnit) (s : State) : s.setAcc u (s.acc u) = s := by cases u <;> rfl

/-- One add per byte is the fold of R142, begun at the accumulator's value. -/
theorem runOps_ckAdds (u : CkUnit) : ∀ (bytes : List Byte) {s : State}, sumFree u s = true →
    runOps (bytes.map (.ckAdd u)) s = .next (s.setAcc u (bytes.foldl ckAddByte (s.acc u)))
  | [], s, _ => by simp
  | b :: bytes, s, h => by
    have ih := runOps_ckAdds u bytes (s := s.setAcc u (ckAddByte (s.acc u) b)) (by simpa using h)
    rw [List.map_cons, runOps_cons (exec_ckAdd_of_free h b), ih, acc_setAcc, setAcc_setAcc, List.foldl_cons]

theorem runOps_ckClear_ckAdds {u : CkUnit} {s : State} (h : sumFree u s = true) (bytes : List Byte) :
    runOps (.ckClear u :: bytes.map (.ckAdd u)) s = .next (s.setAcc u (cksum bytes)) := by
  rw [runOps_cons (exec_ckClear_of_free h), runOps_ckAdds u bytes (by simpa using h), acc_setAcc, setAcc_setAcc, cksum]

/-- Settles O15: the run leaves the checksum of the bytes in the order added, which is that of any other order. -/
theorem incrementalChecksumAgrees : Obligations.IncrementalChecksumAgrees := by
  intro s bytes order hp
  rw [cksum_perm hp]
  exact ⟨fun h => runOps_ckClear_ckAdds (sumFree_tx_iff.mpr h) order,
    fun h => runOps_ckClear_ckAdds (sumFree_rx_iff.mpr h) order⟩

end Sys2Proof.Machine
end

section
/-! PROOFS. The header codec (spec/41_header_codec.md R160 to R166; spec/30_encoding.md R110, R117; log 5). -/

namespace Sys2Proof.Machine

/-! ## The encoder (R110, R160) -/

theorem le16_map_toNat (v : U16) : (le16 v).map BitVec.toNat = [v.toNat % 256, v.toNat / 256] := by
  have := v.isLt
  simp only [le16, List.map_cons, List.map_nil, byteAt_toNat, List.cons.injEq, and_true]
  omega

theorem le32_map_toNat (v : U32) : (le32 v).map BitVec.toNat =
    [v.toNat % 256, v.toNat / 256 % 256, v.toNat / 65536 % 256, v.toNat / 16777216] := by
  have := v.isLt
  simp only [le32, List.map_cons, List.map_nil, byteAt_toNat, List.cons.injEq, and_true]
  omega

/-- Settles O16: the bytes are those of the fields in the layout's order, each field's least significant byte first. -/
theorem headerEncodesToLayout : Obligations.HeaderEncodesToLayout := by
  intro h s
  refine ⟨?bytes, execHdrEncode_eq h s⟩
  case bytes =>
    simp only [hdrEncode_toList, hdrBytes_eq, List.map_append, le16_map_toNat, le32_map_toNat]
    rfl

/-! ## The decoder's verdict from the window's bytes (R117, R161, R162) -/

theorem u16le_eq_ofNat (w : Window) (o : Nat) (h : o + 1 < hdrLen) :
    u16le w o h = BitVec.ofNat 16 (w[o].toNat + 256 * w[o + 1].toNat) := by
  rw [u16le, ← u16of_toNat, BitVec.ofNat_toNat, BitVec.setWidth_eq]

theorem u32le_eq_ofNat (w : Window) (o : Nat) (h : o + 3 < hdrLen) : u32le w o h =
    BitVec.ofNat 32 (w[o].toNat + 256 * w[o + 1].toNat + 65536 * w[o + 2].toNat + 16777216 * w[o + 3].toNat) := by
  rw [u32le, ← u32of_toNat, BitVec.ofNat_toNat, BitVec.setWidth_eq]

theorem markersGood_iff_bytes (w : Window) : markersGood w = true ↔
    w[0].toNat + 256 * w[1].toNat = 0xAA55 ∧ w[18].toNat + 256 * w[19].toNat = 0x55AA := by
  rw [markersGood_iff, ← BitVec.toNat_inj, ← BitVec.toNat_inj, u16le, u16le, u16of_toNat, u16of_toNat]
  rfl

theorem hdrFields_dataLength_toNat (w : Window) : (hdrFields w).dataLength.toNat =
    w[6].toNat + 256 * w[7].toNat + 65536 * w[8].toNat + 16777216 * w[9].toNat :=
  u32of_toNat ..

theorem hdrFields_eq_ofNat (w : Window) : hdrFields w =
    { width       := BitVec.ofNat 16 (w[2].toNat + 256 * w[3].toNat)
      height      := BitVec.ofNat 16 (w[4].toNat + 256 * w[5].toNat)
      dataLength  := BitVec.ofNat 32 (w[6].toNat + 256 * w[7].toNat + 65536 * w[8].toNat + 16777216 * w[9].toNat)
      pixelFormat := BitVec.ofNat 16 (w[10].toNat + 256 * w[11].toNat)
      frameId     := BitVec.ofNat 16 (w[12].toNat + 256 * w[13].toNat)
      checksum    := BitVec.ofNat 32
        (w[14].toNat + 256 * w[15].toNat + 65536 * w[16].toNat + 16777216 * w[17].toNat) } := by
  simp only [hdrFields, u16le_eq_ofNat, u32le_eq_ofNat]

/-- A wrong marker is reported whatever the length is (R162). -/
theorem hdrDecode_of_badMarkers {m : U32} {w : Window} (hb : ¬ markersGood w = true) :
    hdrDecode m w = .error .malformedHeader :=
  if_pos (Bool.eq_false_iff.mpr hb)

theorem hdrDecode_of_tooLong {m : U32} {w : Window} (hg : markersGood w = true) (hl : m < (hdrFields w).dataLength) :
    hdrDecode m w = .error .payloadTooLarge := by
  simp [hdrDecode, hg, hl]

theorem hdrDecode_of_fits {m : U32} {w : Window} (hg : markersGood w = true) (hl : ¬ m < (hdrFields w).dataLength) :
    hdrDecode m w = .ok (hdrFields w) := by
  simp [hdrDecode, hg, hl]

theorem decodeResult_hdrDecode (m : U32) (w : Window) : decodeResult (hdrDecode m w) =
    if ¬ markersGood w = true then .decodeFailed .malformedHeader
    else if m.toNat < (hdrFields w).dataLength.toNat then .decodeFailed .payloadTooLarge
    else .decoded (hdrFields w) := by
  split_ifs with hg hl
  · rw [hdrDecode_of_tooLong hg hl, decodeResult]
  · rw [hdrDecode_of_fits hg hl, decodeResult]
  · rw [hdrDecode_of_badMarkers hg, decodeResult]

/-- Settles O17: the markers, the length and the fields of the verdict are read off the window's bytes. -/
theorem headerDecodeVerdict : Obligations.HeaderDecodeVerdict := by
  intro w s
  have hv := decodeResult_hdrDecode s.params.maxPayloadLen w
  simp only [markersGood_iff_bytes, not_and_or, hdrFields_dataLength_toNat] at hv
  rw [hdrFields_eq_ofNat] at hv
  exact (execHdrDecode_eq w s).trans (congrArg (fun r => Host.Outcome.next (s.answer r)) hv)

/-! ## The round trips (R163, R164) -/

theorem hdrEncode_hdrFields {w : Window} (hg : markersGood w = true) : hdrEncode (hdrFields w) = w :=
  Vector.toList_inj.mp (hdrBytes_hdrFields hg)

/-- Settles O18: an encoded header has good markers and its own fields, and a window that decodes is its fields' encoding. -/
theorem headerRoundTrips : Obligations.HeaderRoundTrips := by
  refine ⟨fun m h => ⟨hdrDecode_hdrEncode, fun hl => ?tooLong⟩, fun m w h hd => ?reencoded⟩
  case tooLong =>
    exact hdrDecode_of_tooLong (markersGood_hdrEncode h) (by rwa [hdrFields_hdrEncode])
  case reencoded =>
    obtain ⟨hg, rfl, -⟩ := hdrDecode_ok hd
    exact hdrEncode_hdrFields hg

end Sys2Proof.Machine
end

section
/-! PROOFS. The Chunked Transmitter (spec/42_chunked_transmitter.md R181 to R183, R186; spec/20_memory.md R88; logs 6, 9, 14). -/

namespace Sys2Proof.Machine

/-! ## A write, by its response (R88) -/

section
variable {bytes : List Byte} {n : U32} (s : State) (k : State → Result)

theorem wireWrite_count (hn : n.toNat ≤ bytes.length) :
    wireWrite bytes (.count n) s k = k (s.wrote bytes (.count n) n.toNat s.draws) :=
  if_pos hn

theorem wireWrite_count_above (hn : bytes.length < n.toNat) :
    wireWrite bytes (.count n) s k = .refused .countExceedsRequest :=
  if_neg hn.not_ge

end

/-- A write that puts no byte on the wire is its request alone. -/
theorem wrote_zero (bytes : List Byte) (resp : WriteResp) (s : State) :
    s.wrote bytes resp 0 s.draws = s.request (.write bytes resp) := by
  simp [State.wrote, State.request]

/-! ## The chunk write, by its response (R181, R182) -/

/-- The unsent bytes, cut to the length that R181 gives the next chunk, are that chunk. -/
theorem take_chunk_length (p : Params) (payload : List Byte) (offset : U32) :
    (payload.drop offset.toNat).take (chunk p payload offset).length = chunk p payload offset := by
  rw [chunk, List.length_take, ← List.take_eq_take_min]

section
variable {s : State} {p : List Byte} (hs : s.tx.state = .writeChunk) (hp : s.tx.payload = some p)
include hs hp

theorem exec_txChunkWrite_count_zero : exec (.txChunkWrite (.count 0)) s =
    .next (finish .payloadWriteError (s.request (.write (chunk s.params p s.tx.offset) (.count 0)))) := by
  rw [exec, execTxChunkWrite, guarded_of_enabled (by simp [enabled, hs]), hp, readField_some,
    wireWrite_count _ _ (Nat.zero_le _), ← wrote_zero]
  exact if_pos rfl

theorem exec_txChunkWrite_count_sent {n : U32} (hn : n ≠ 0)
    (hle : n.toNat ≤ (chunk s.params p s.tx.offset).length) : exec (.txChunkWrite (.count n)) s =
    .next ((s.wrote (chunk s.params p s.tx.offset) (.count n) n.toNat s.draws).setTx { s.tx with
      wire := s.tx.wire ++ (chunk s.params p s.tx.offset).take n.toNat
      offset := s.tx.offset + n, bytesSent := s.tx.bytesSent + n, state := .drain }) := by
  rw [exec, execTxChunkWrite, guarded_of_enabled (by simp [enabled, hs]), hp, readField_some, wireWrite_count _ _ hle]
  exact if_neg hn

theorem exec_txChunkWrite_count_above {n : U32} (hn : (chunk s.params p s.tx.offset).length < n.toNat) :
    exec (.txChunkWrite (.count n)) s = .refused .countExceedsRequest := by
  rw [exec, execTxChunkWrite, guarded_of_enabled (by simp [enabled, hs]), hp, readField_some,
    wireWrite_count_above _ _ hn]

theorem exec_txChunkWrite_fail : exec (.txChunkWrite .fail) s =
    .next (finish .payloadWriteError (s.wrote (chunk s.params p s.tx.offset) .fail
      (failedPrefix s.draws (chunk s.params p s.tx.offset).length) (s.draws + 1))) := by
  rw [exec, execTxChunkWrite, guarded_of_enabled (by simp [enabled, hs]), hp, readField_some, wireWrite]

end

/-- Settles O26: the request is `chunk`, and each response has its equation. -/
theorem chunkWriteResult : Obligations.ChunkWriteResult := by
  intro s payload hs hp _
  simp only [← chunk_length, take_chunk_length]
  refine ⟨fun n hn hle => ?sent, ?zero, ⟨_, failedPrefix_le s.draws _, ?fail⟩, fun n hn => ?above⟩
  case sent => exact exec_txChunkWrite_count_sent hs hp (by rintro rfl; simp at hn) hle
  case zero => exact exec_txChunkWrite_count_zero hs hp
  case fail => exact exec_txChunkWrite_fail hs hp
  case above => exact exec_txChunkWrite_count_above hs hp hn

/-! ## The drain, by its response (R183) -/

theorem exec_txDrain_timeout {s : State} (hs : s.tx.state = .drain) :
    exec (.txDrain .timeout) s = .next (finish .payloadWriteError (wireDrain .timeout s)) :=
  guarded_of_enabled (by simp [enabled, hs])

theorem exec_txDrain_done {s : State} {p : List Byte} (hs : s.tx.state = .drain) (hp : s.tx.payload = some p) :
    exec (.txDrain .done) s = .next ((wireDrain .done s).setTx { s.tx with
      state := if s.tx.offset.toNat = p.length then .writeTrailer else .writeChunk }) := by
  rw [exec, execTxDrain, guarded_of_enabled (by simp [enabled, hs]), hp, readField_some]

/-- Settles O27: the equations of the two responses, and the test on the offset decided. -/
theorem drainResult : Obligations.DrainResult := by
  intro s payload hs hp
  refine ⟨exec_txDrain_timeout hs, fun hall => ?allSent, fun hleft => ?bytesLeft⟩
  case allSent =>
    rw [exec_txDrain_done hs hp, if_pos hall]
    rfl
  case bytesLeft =>
    rw [exec_txDrain_done hs hp, if_neg hleft]
    rfl

/-! ## Short counts (R186) -/

theorem TxInv.payload_fits {tx : TxState} (hi : TxInv tx) (hs : tx.state ≠ .idle) {p : List Byte}
    (hp : tx.payload = some p) : fitsU32 p := by
  obtain ⟨-, hm⟩ := hi
  split at hm
  · exact absurd ‹_› hs
  · obtain ⟨-, -, -, p', -, -, -, hp', hfit, -, -⟩ := hm
    obtain rfl := Option.some.inj (hp.symm.trans hp')
    exact hfit

/-- Before a chunk of the payload `p` or after the last: no drain is to come, and the trailer is next exactly when every byte
is sent. -/
structure BetweenChunks (p : List Byte) (s : State) : Prop where
  inv     : TxInv s.tx
  payload : s.tx.payload = some p
  state   : s.tx.state = if s.tx.offset.toNat = p.length then .writeTrailer else .writeChunk

theorem BetweenChunks.of_writeChunk {p : List Byte} {s : State} (hi : TxInv s.tx) (hs : s.tx.state = .writeChunk)
    (hp : s.tx.payload = some p) : BetweenChunks p s := by
  have hoff := hi.offset_place (by simp [hs]) hp
  rw [hs, offsetOk] at hoff
  exact ⟨hi, hp, by rw [hs, if_neg hoff.ne]⟩

theorem BetweenChunks.writeTrailer_iff {p : List Byte} {s : State} (hb : BetweenChunks p s) :
    s.tx.state = .writeTrailer ↔ s.tx.offset.toNat = p.length := by
  rw [hb.state]
  split <;> simpa

/-- A non-zero count that is not refused puts that many bytes of the payload on the wire and moves the offset by it; the offset
does not wrap, for a payload's length is a u32. -/
theorem exec_txChunkWrite_count_next {p : List Byte} {s u : State} {n : U32} (hi : TxInv s.tx)
    (hs : s.tx.state = .writeChunk) (hp : s.tx.payload = some p) (hn : n ≠ 0)
    (h : exec (.txChunkWrite (.count n)) s = .next u) :
    u.tx.wire = s.tx.wire ++ (p.drop s.tx.offset.toNat).take n.toNat ∧
      u.tx.offset.toNat = s.tx.offset.toNat + n.toNat ∧ u.tx.payload = some p ∧ u.tx.state = .drain := by
  rcases Nat.lt_or_ge (chunk s.params p s.tx.offset).length n.toNat with hlt | hle
  · rw [exec_txChunkWrite_count_above hs hp hlt] at h
    cases h
  · rw [exec_txChunkWrite_count_sent hs hp hn hle] at h
    cases h
    have hfit := hi.payload_fits (by simp [hs]) hp
    have hoff : (s.tx.offset + n).toNat = s.tx.offset.toNat + n.toNat :=
      BitVec.toNat_add_of_lt (by rw [chunk_length] at hle; omega)
    exact ⟨congrArg _ (chunk_take _ _ _ _ hle), hoff, hp, rfl⟩

/-- One chunk write and its drain lead from one place between chunks to the next. -/
theorem BetweenChunks.round {p : List Byte} {s u t : State} {n : U32} (hb : BetweenChunks p s)
    (hlt : s.tx.offset.toNat < p.length) (hn : n ≠ 0) (hw : exec (.txChunkWrite (.count n)) s = .next u)
    (hd : exec (.txDrain .done) u = .next t) :
    BetweenChunks p t ∧ t.tx.wire = s.tx.wire ++ (p.drop s.tx.offset.toNat).take n.toNat ∧
      t.tx.offset.toNat = s.tx.offset.toNat + n.toNat := by
  have hs : s.tx.state = .writeChunk := by rw [hb.state, if_neg hlt.ne]
  obtain ⟨hwire, hoff, hp, hdrain⟩ := exec_txChunkWrite_count_next hb.inv hs hb.payload hn hw
  have hinv := exec_keeps_txInv (exec_keeps_txInv hb.inv hw) hd
  rw [exec_txDrain_done hdrain hp] at hd
  cases hd
  exact ⟨⟨hinv, hp, rfl⟩, hwire, hoff⟩

/-- Every round sends the payload's next bytes. That a round's count is not 0 and the counts fit what is unsent is why its chunk
write, and not the trailer, is what TX is at. -/
theorem BetweenChunks.rounds {p : List Byte} : ∀ {counts : List U32} {s t : State}, BetweenChunks p s →
    (∀ n ∈ counts, n ≠ 0) → (counts.map BitVec.toNat).sum ≤ p.length - s.tx.offset.toNat →
    runOps (counts.flatMap fun n => [.txChunkWrite (.count n), .txDrain .done]) s = .next t →
    BetweenChunks p t ∧
      t.tx.wire = s.tx.wire ++ (p.drop s.tx.offset.toNat).take (counts.map BitVec.toNat).sum ∧
      t.tx.offset.toNat = s.tx.offset.toNat + (counts.map BitVec.toNat).sum
  | [], s, t, hb, _, _, h => by
    cases h
    simpa using hb
  | n :: counts, s, t, hb, hne, hsum, h => by
    obtain ⟨hn, hne⟩ := List.forall_mem_cons.mp hne
    rw [List.map_cons, List.sum_cons] at hsum ⊢
    have hpos : n.toNat ≠ 0 := fun h0 => hn (BitVec.eq_of_toNat_eq h0)
    obtain ⟨u, hw, h⟩ := runOps_cons_next h
    obtain ⟨v, hd, h⟩ := runOps_cons_next h
    obtain ⟨hv, hwire, hoff⟩ := hb.round (by omega) hn hw hd
    obtain ⟨ht, hwire', hoff'⟩ := hv.rounds hne (by omega) h
    refine ⟨ht, ?_, by omega⟩
    rw [hwire', hwire, hoff, List.append_assoc, ← List.drop_drop, ← List.take_add]

/-- Settles O32: round after round the wire and the offset move by the same bytes, and the place where the last round ends says
whether the trailer is next. -/
theorem shortCountsLoseNothing : Obligations.ShortCountsLoseNothing := by
  intro counts s t payload hi hs hp hne hsum h
  obtain ⟨hb, hwire, hoff⟩ := (BetweenChunks.of_writeChunk hi hs hp).rounds hne hsum h
  exact ⟨hwire, hoff, by rw [hb.writeTrailer_iff, hoff]⟩

end Sys2Proof.Machine
end

section
/-! PROOFS. The Frame Sender (spec/43_frame_sender.md R200 to R207, R209, R210; spec/20_memory.md R88; spec/60_exceptions.md
R300, R307; logs 2, 6, 9, 14, 15, 23, 26). -/

namespace Sys2Proof.Machine

/-! ## One operation, where it is enabled -/

section
variable {w ht f : U16} {p : List Byte} {s : State}

theorem exec_sendFrame_of_idle (hp : fitsU32 p) (hs : s.tx.state = .idle) :
    exec (.sendFrame w ht f p) s = .next (s.setTx (s.tx.capture w ht f p)) := by
  rw [exec, execSendFrame, if_pos hp, guarded_of_enabled (by simp [enabled, hs])]

theorem exec_sendFrame_tooLong (hp : 2 ^ 32 ≤ p.length) : exec (.sendFrame w ht f p) s = .refused .payloadTooLong :=
  if_neg hp.not_gt

theorem exec_txCksum_of_checksum (hs : s.tx.state = .checksum) (hw : s.tx.width = some w) (hh : s.tx.height = some ht)
    (hf : s.tx.pixelFormat = some f) (hp : s.tx.payload = some p) :
    exec .txCksum s = .next (s.setTx { s.tx with
      sum := cksum p, hdr := some (hdrEncode (frameHeader w ht f s.tx.frameId p)), state := .writeHeader }) := by
  rw [exec, execTxCksum, guarded_of_enabled (by simp [enabled, hs]), hw, hh, hf, hp]
  rfl

theorem exec_txDelayDone_of_delay (hs : s.tx.state = .delay) (hp : s.tx.payload = some p) :
    exec .txDelayDone s =
      .next (s.setTx { s.tx with state := if p.length = 0 then .writeTrailer else .writeChunk }) := by
  rw [exec, execTxDelayDone, guarded_of_enabled (by simp [enabled, hs]), hp, readField_some]

end

/-! ## The header write, by its response (R203, R88) -/

section
variable {s : State} {hdr : Window} (hs : s.tx.state = .writeHeader) (hh : s.tx.hdr = some hdr)
include hs hh

theorem exec_txHdrWrite_of_writeHeader (r : WriteResp) : exec (.txHdrWrite r) s =
    wireWrite hdr.toList r s fun u =>
      if r = .count 20 then .next (u.setTx { u.tx with state := .delay }) else .next (finish .headerWriteError u) := by
  rw [exec, execTxHdrWrite, guarded_of_enabled (by simp [enabled, hs]), hh, readField_some]
  rfl

theorem exec_txHdrWrite_full : exec (.txHdrWrite (.count 20)) s =
    .next ((s.request (.write hdr.toList (.count 20))).setTx
      { s.tx with wire := s.tx.wire ++ hdr.toList, state := .delay }) := by
  rw [exec_txHdrWrite_of_writeHeader hs hh, wireWrite_count _ _ (by simp), if_pos rfl]
  simp [State.wrote, State.request, State.setTx]

theorem exec_txHdrWrite_short {n : U32} (hn : n.toNat < 20) : exec (.txHdrWrite (.count n)) s =
    .next (finish .headerWriteError (s.wrote hdr.toList (.count n) n.toNat s.draws)) := by
  rw [exec_txHdrWrite_of_writeHeader hs hh, wireWrite_count _ _ (by simpa using hn.le),
    if_neg (by rintro ⟨⟩; exact hn.ne rfl)]

theorem exec_txHdrWrite_fail : exec (.txHdrWrite .fail) s =
    .next (finish .headerWriteError (s.wrote hdr.toList .fail (failedPrefix s.draws 20) (s.draws + 1))) := by
  rw [exec_txHdrWrite_of_writeHeader hs hh, wireWrite, if_neg (by simp), hdr.length_toList]

theorem exec_txHdrWrite_above {n : U32} (hn : 20 < n.toNat) :
    exec (.txHdrWrite (.count n)) s = .refused .countExceedsRequest := by
  rw [exec_txHdrWrite_of_writeHeader hs hh, wireWrite_count_above _ _ (by simpa using hn)]

end

/-! ## The trailer write, by its response (R205, R88) -/

section
variable {s : State} (hs : s.tx.state = .writeTrailer)
include hs

theorem exec_txTrlWrite_of_writeTrailer (r : WriteResp) : exec (.txTrlWrite r) s =
    wireWrite [0xAD, 0xDE] r s fun u =>
      if r = .count 2 then .next (finish .ok u) else .next (finish .trailerWriteError u) := by
  rw [exec, execTxTrlWrite, guarded_of_enabled (by simp [enabled, hs]), le16_trailerMarker]
  rfl

theorem exec_txTrlWrite_full : exec (.txTrlWrite (.count 2)) s =
    .next (finish .ok (s.wrote [0xAD, 0xDE] (.count 2) 2 s.draws)) := by
  rw [exec_txTrlWrite_of_writeTrailer hs, wireWrite_count _ _ (by simp), if_pos rfl]
  rfl

theorem exec_txTrlWrite_short {n : U32} (hn : n.toNat < 2) : exec (.txTrlWrite (.count n)) s =
    .next (finish .trailerWriteError (s.wrote [0xAD, 0xDE] (.count n) n.toNat s.draws)) := by
  rw [exec_txTrlWrite_of_writeTrailer hs, wireWrite_count _ _ (by simpa using hn.le),
    if_neg (by rintro ⟨⟩; exact hn.ne rfl)]

theorem exec_txTrlWrite_fail : exec (.txTrlWrite .fail) s =
    .next (finish .trailerWriteError (s.wrote [0xAD, 0xDE] .fail (failedPrefix s.draws 2) (s.draws + 1))) := by
  rw [exec_txTrlWrite_of_writeTrailer hs, wireWrite, if_neg (by simp)]
  rfl

theorem exec_txTrlWrite_above {n : U32} (hn : 2 < n.toNat) :
    exec (.txTrlWrite (.count n)) s = .refused .countExceedsRequest := by
  rw [exec_txTrlWrite_of_writeTrailer hs, wireWrite_count_above _ _ (by simpa using hn)]

end

/-! ## The statements on one operation -/

/-- Settles O20: the guard of `SEND_FRAME` is `Idle`, and it stands behind the bound on the length. -/
theorem sendFrameCapturesOrIsHeld : Obligations.SendFrameCapturesOrIsHeld := by
  refine fun s w ht f p => ⟨fun hp hs => ?captures, fun hp hs => ?held, exec_sendFrame_tooLong⟩
  case captures => exact exec_sendFrame_of_idle hp hs
  case held =>
    have he : enabled (.sendFrame w ht f p) s = false := by simpa [enabled] using hs
    exact exec_of_disabled hp he

/-- Settles O21: the record is its code alone, and the header is built from the captured fields and the counter. -/
theorem txCksumBuildsHeader : Obligations.TxCksumBuildsHeader :=
  ⟨decode_byte .txCksum, fun _ _ _ _ _ => exec_txCksum_of_checksum⟩

/-- Settles O22: the record update that `finish` is; its increment of the counter is the one modulo 2^16. -/
theorem finishEndsAttempt : Obligations.FinishEndsAttempt := by
  intro s code
  have hid : s.tx.frameId + 1 = BitVec.ofNat 16 (s.tx.frameId.toNat + 1) := by
    rw [BitVec.ofNat_add, BitVec.ofNat_toNat, BitVec.setWidth_eq]
    rfl
  rw [← hid]
  rfl

/-- Settles O23: each response has its equation. -/
theorem headerWriteResult : Obligations.HeaderWriteResult := fun s _ hs hh =>
  ⟨exec_txHdrWrite_full hs hh, fun _ => exec_txHdrWrite_short hs hh,
    ⟨_, failedPrefix_le s.draws 20, exec_txHdrWrite_fail hs hh⟩, fun _ => exec_txHdrWrite_above hs hh⟩

/-- Settles O24: the record is its code alone, and the test on the payload's length is decided. -/
theorem delayDoneResult : Obligations.DelayDoneResult := by
  refine ⟨decode_byte .txDelayDone, fun s p hs hp => ⟨fun h0 => ?empty, fun hne => ?nonempty⟩⟩
  case empty =>
    rw [exec_txDelayDone_of_delay hs hp, if_pos (List.length_eq_zero_iff.mpr h0)]
    rfl
  case nonempty =>
    rw [exec_txDelayDone_of_delay hs hp, if_neg (mt List.length_eq_zero_iff.mp hne)]
    rfl

/-- Settles O25: each response has its equation. -/
theorem trailerWriteResult : Obligations.TrailerWriteResult := fun s hs =>
  ⟨exec_txTrlWrite_full hs, fun _ => exec_txTrlWrite_short hs,
    ⟨_, failedPrefix_le s.draws 2, exec_txTrlWrite_fail hs⟩, fun _ => exec_txTrlWrite_above hs⟩

/-! ## How one operation moves TX (R201, R206) -/

/-- The arrows of R201. -/
def txArrows : List (TxSt × Option Opcode × TxSt) :=
  [(.idle, some .sendFrame, .checksum), (.checksum, some .txCksum, .writeHeader),
   (.writeHeader, some .txHdrWrite, .delay), (.writeHeader, some .txHdrWrite, .idle),
   (.delay, some .txDelayDone, .writeChunk), (.delay, some .txDelayDone, .writeTrailer),
   (.writeChunk, some .txChunkWrite, .drain), (.writeChunk, some .txChunkWrite, .idle),
   (.drain, some .txDrain, .writeChunk), (.drain, some .txDrain, .writeTrailer),
   (.drain, some .txDrain, .idle), (.writeTrailer, some .txTrlWrite, .idle)]

/-- The operation that ends an attempt in a state, with the code of its result (R300, R307). -/
inductive AttemptEnds : Instr → TxSt → TxCode → Prop where
  | header (r : WriteResp) : AttemptEnds (.txHdrWrite r) .writeHeader .headerWriteError
  | chunk (r : WriteResp) : AttemptEnds (.txChunkWrite r) .writeChunk .payloadWriteError
  | drain (r : DrainResp) : AttemptEnds (.txDrain r) .drain .payloadWriteError
  | trailer (r : WriteResp) : AttemptEnds (.txTrlWrite r) .writeTrailer .trailerWriteError
  | sent : AttemptEnds (.txTrlWrite (.count 2)) .writeTrailer .ok

/-- The operation that takes up a frame in a state or goes on with it, and the state it leads to. -/
inductive FrameGoesOn : Instr → TxSt → TxSt → Prop where
  | capture (w ht f : U16) (p : List Byte) : FrameGoesOn (.sendFrame w ht f p) .idle .checksum
  | cksum : FrameGoesOn .txCksum .checksum .writeHeader
  | header (r : WriteResp) : FrameGoesOn (.txHdrWrite r) .writeHeader .delay
  | delay {st : TxSt} (hst : st = .writeTrailer ∨ st = .writeChunk) : FrameGoesOn .txDelayDone .delay st
  | chunk (r : WriteResp) : FrameGoesOn (.txChunkWrite r) .writeChunk .drain
  | drain (r : DrainResp) {st : TxSt} (hst : st = .writeTrailer ∨ st = .writeChunk) : FrameGoesOn (.txDrain r) .drain st

theorem FrameGoesOn.arrow {i : Instr} {st st' : TxSt} (h : FrameGoesOn i st st') :
    (st, i.opcode, st') ∈ txArrows := by
  cases h with
  | delay hst | drain _ hst => rcases hst with rfl | rfl <;> simp [txArrows, Instr.opcode]
  | _ => simp [txArrows, Instr.opcode]

theorem FrameGoesOn.ne_idle {i : Instr} {st st' : TxSt} (h : FrameGoesOn i st st') : st' ≠ .idle := by
  cases h with
  | delay hst | drain _ hst => rcases hst with rfl | rfl <;> simp
  | _ => simp

theorem AttemptEnds.arrow {i : Instr} {st : TxSt} {code : TxCode} (h : AttemptEnds i st code) :
    (st, i.opcode, .idle) ∈ txArrows := by
  cases h <;> simp [txArrows, Instr.opcode]

theorem AttemptEnds.code_allowed {i : Instr} {st : TxSt} {code : TxCode} (h : AttemptEnds i st code) :
    (code = .headerWriteError ∧ st = .writeHeader) ∨
    (code = .payloadWriteError ∧ (st = .writeChunk ∨ st = .drain)) ∨
    (code = .trailerWriteError ∧ st = .writeTrailer) ∨
    (code = .ok ∧ i = .txTrlWrite (.count 2) ∧ st = .writeTrailer) := by
  cases h <;> simp

/-- What one operation does to the TX state, the counter and the result channel. -/
inductive TxMove (i : Instr) (s t : State) : Prop where
  /-- TX stays where it is. -/
  | stays (hst : t.tx.state = s.tx.state) (hid : t.tx.frameId = s.tx.frameId) (hev : t.txEv = s.txEv)
  /-- TX takes up a frame or goes on with it. -/
  | goesOn (hon : FrameGoesOn i s.tx.state t.tx.state) (hid : t.tx.frameId = s.tx.frameId) (hev : t.txEv = s.txEv)
  /-- TX ends the attempt. -/
  | ends (code : TxCode) (hends : AttemptEnds i s.tx.state code) (hst : t.tx.state = .idle)
      (hid : t.tx.frameId = s.tx.frameId + 1) (hev : t.txEv = s.txEv ++ [⟨code, s.tx.frameId, s.tx.bytesSent⟩])

theorem TxMove.of_hold (i j : Instr) (s : State) : TxMove i s (s.hold j) := .stays rfl rfl rfl

theorem exec_tx_move {i : Instr} {s t : State} (hi : i.isTx = true) (h : exec i s = .next t) : TxMove i s t := by
  cases i with
  | sendFrame w ht f p =>
    obtain ⟨-, ⟨hs, rfl⟩ | ⟨-, rfl⟩⟩ := execSendFrame_next h
    · exact .goesOn (hs ▸ .capture w ht f p) rfl rfl
    · exact .of_hold _ _ _
  | txCksum =>
    obtain ⟨hs, w, ht, f, p, -, -, -, -, rfl⟩ | ⟨-, rfl⟩ := execTxCksum_next h
    · exact .goesOn (hs ▸ .cksum) rfl rfl
    · exact .of_hold _ _ _
  | txHdrWrite r =>
    obtain ⟨hs, hdr, n, d, -, -, -, ⟨-, rfl⟩ | ⟨-, rfl⟩⟩ | ⟨-, rfl⟩ := execTxHdrWrite_next h
    · exact .goesOn (hs ▸ .header r) rfl rfl
    · exact .ends _ (hs ▸ .header r) rfl rfl rfl
    · exact .of_hold _ _ _
  | txDelayDone =>
    obtain ⟨hs, p, -, rfl⟩ | ⟨-, rfl⟩ := execTxDelayDone_next h
    · exact .goesOn (hs ▸ .delay (ite_eq_or_eq _ _ _)) rfl rfl
    · exact .of_hold _ _ _
  | txChunkWrite r =>
    obtain ⟨hs, p, n, d, -, -, -, ⟨-, rfl⟩ | ⟨c, -, -, rfl⟩⟩ | ⟨-, rfl⟩ := execTxChunkWrite_next h
    · exact .ends _ (hs ▸ .chunk r) rfl rfl rfl
    · exact .goesOn (hs ▸ .chunk r) rfl rfl
    · exact .of_hold _ _ _
  | txDrain r =>
    obtain ⟨hs, ⟨-, rfl⟩ | ⟨-, p, -, rfl⟩⟩ | ⟨-, rfl⟩ := execTxDrain_next h
    · exact .ends _ (hs ▸ .drain r) rfl rfl rfl
    · exact .goesOn (hs ▸ .drain r (ite_eq_or_eq _ _ _)) rfl rfl
    · exact .of_hold _ _ _
  | txTrlWrite r =>
    obtain ⟨hs, n, d, -, -, ⟨rfl, rfl⟩ | ⟨-, rfl⟩⟩ | ⟨-, rfl⟩ := execTxTrlWrite_next h
    · exact .ends _ (hs ▸ .sent) rfl rfl rfl
    · exact .ends _ (hs ▸ .trailer r) rfl rfl rfl
    · exact .of_hold _ _ _
  | _ => simp [Instr.isTx] at hi

/-- Only the TX agent and `RESET` move TX, advance the counter or emit a result. -/
theorem exec_move_of_not_isTx {i : Instr} {s t : State} (hi : i.isTx = false) (hne : i ≠ .reset)
    (h : exec i s = .next t) : TxMove i s t := by
  have accumulators (u : CkUnit) (v : U32) : TxMove i s (s.setAcc u v) := by
    cases u <;> exact .stays rfl rfl rfl
  cases i with
  | sendFrame | txCksum | txHdrWrite | txDelayDone | txChunkWrite | txDrain | txTrlWrite => simp [Instr.isTx] at hi
  | rxByte | rxReplay | rxSettle | rxTimeout | wireHeader | wireTrailer | wireStart =>
    obtain ⟨htx, hev, -⟩ := exec_rx_frame rfl h
    exact .stays (by rw [htx]) (by rw [htx]) hev
  | cksum | hdrEncode | hdrDecode | txStatus | rxStatus =>
    obtain ⟨r, rfl⟩ := exec_read rfl h
    exact .stays rfl rfl rfl
  | ckClear u =>
    obtain ⟨-, rfl⟩ | ⟨-, rfl⟩ := execCkClear_next h
    · exact accumulators u _
    · exact .of_hold _ _ _
  | ckAdd u b =>
    obtain ⟨-, rfl⟩ | ⟨-, rfl⟩ := execCkAdd_next h
    · exact accumulators u _
    · exact .of_hold _ _ _
  | reset => exact absurd rfl hne

theorem exec_move {i : Instr} {s t : State} (h : exec i s = .next t) (hne : i ≠ .reset) : TxMove i s t := by
  cases hi : i.isTx with
  | true => exact exec_tx_move hi h
  | false => exact exec_move_of_not_isTx hi hne h

/-- Settles O28: going on with a frame and ending it are both along an arrow. -/
theorem txTransitions : Obligations.TxTransitions := by
  intro i s t h hne
  cases exec_move h hne with
  | stays hst => exact .inl hst
  | goesOn hon => exact .inr hon.arrow
  | ends code hends hst =>
    rw [hst]
    exact .inr hends.arrow

/-- Settles O29: only the end of an attempt brings TX to `Idle`, and it is what counts and emits. -/
theorem oneResultPerAttempt : Obligations.OneResultPerAttempt := by
  intro i s t h hne
  cases exec_move h hne with
  | stays hst hid hev => exact .inl ⟨hid, hev, hst.symm.trans⟩
  | goesOn hon hid hev => exact .inl ⟨hid, hev, fun h0 => absurd h0 hon.ne_idle⟩
  | ends code hends hst hid hev => exact .inr ⟨by rw [hid, BitVec.toNat_add]; rfl, hst, code, hev, hends.code_allowed⟩

/-! ## A good frame (R210) -/

/-- The state after the header of a frame with payload `p` and the pacing delay, from a state in `Idle`. -/
def State.headerSent (h : Header) (p : List Byte) (s : State) : State :=
  { s with
    tx := { s.tx with
      state := if p.length = 0 then .writeTrailer else .writeChunk
      width := some h.width, height := some h.height, pixelFormat := some h.pixelFormat, payload := some p
      sum := h.checksum, hdr := some (hdrEncode h), offset := 0, bytesSent := 0, wire := s.tx.wire ++ hdrBytes h }
    txPort := s.txPort ++ [.write (hdrBytes h) (.count 20)] }

theorem runOps_headerSent {w ht f : U16} {p : List Byte} {s : State} (hp : fitsU32 p) (hs : s.tx.state = .idle) :
    runOps [.sendFrame w ht f p, .txCksum, .txHdrWrite (.count 20), .txDelayDone] s =
      .next (s.headerSent (frameHeader w ht f s.tx.frameId p) p) := by
  rw [runOps_cons (exec_sendFrame_of_idle hp hs), runOps_cons (exec_txCksum_of_checksum rfl rfl rfl rfl rfl),
    runOps_cons (exec_txHdrWrite_full rfl rfl), runOps_cons (exec_txDelayDone_of_delay rfl rfl)]
  rfl

theorem BetweenChunks.of_headerSent (w ht f : U16) {p : List Byte} (s : State) (hp : fitsU32 p) :
    BetweenChunks p (s.headerSent (frameHeader w ht f s.tx.frameId p) p) := by
  have hinv : TxInv (s.headerSent (frameHeader w ht f s.tx.frameId p) p).tx := by
    unfold State.headerSent
    split
    · exact ⟨rfl, w, ht, f, p, rfl, rfl, rfl, rfl, hp, rfl, Eq.symm ‹_›⟩
    · exact ⟨rfl, w, ht, f, p, rfl, rfl, rfl, rfl, hp, rfl, Nat.pos_of_ne_zero ‹_›⟩
  exact ⟨hinv, rfl, by simp [State.headerSent, eq_comm]⟩

/-- The state once the bytes of the payload `p` before place `k` are sent, with the requests that took. -/
def State.sentTo (p : List Byte) (k : Nat) (requests : List TxRequest) (s : State) : State :=
  { s with
    tx := { s.tx with
      state := if k = p.length then .writeTrailer else .writeChunk
      offset := BitVec.ofNat 32 k, bytesSent := BitVec.ofNat 32 k
      wire := s.tx.wire ++ (p.take k).drop s.tx.offset.toNat }
    txPort := s.txPort ++ requests }

theorem sentTo_offset_toNat {p : List Byte} {k : Nat} (hp : fitsU32 p) (hk : k ≤ p.length) (a : List TxRequest)
    (s : State) : (s.sentTo p k a).tx.offset.toNat = k :=
  Nat.mod_eq_of_lt (hk.trans_lt hp)

/-- Sending on from where an earlier part ended. -/
theorem sentTo_sentTo {p : List Byte} {s : State} {j k : Nat} {a b : List TxRequest} (hp : fitsU32 p)
    (hj : s.tx.offset.toNat ≤ j) (hjk : j ≤ k) (hk : k ≤ p.length) :
    (s.sentTo p j a).sentTo p k b = s.sentTo p k (a ++ b) := by
  have hwire : (p.take j).drop s.tx.offset.toNat ++ (p.take k).drop j = (p.take k).drop s.tx.offset.toNat := by
    have hjoin := List.take_append_drop j (p.take k)
    rw [List.take_take, Nat.min_eq_left hjk] at hjoin
    rw [← List.drop_append_of_le_length (by rw [List.length_take]; omega), hjoin]
  rw [State.sentTo, sentTo_offset_toNat hp (hjk.trans hk)]
  simp [State.sentTo, hwire]

/-- The requests of a chunk write with a count of `n` and of its drain. -/
def State.chunkRequests (p : List Byte) (n : Nat) (s : State) : List TxRequest :=
  [.write (chunk s.params p s.tx.offset) (.count (BitVec.ofNat 32 n)), .drain s.params.drainTimeout .done]

section
variable {p : List Byte} {s : State} (hb : BetweenChunks p s)
include hb

theorem BetweenChunks.ne_idle : s.tx.state ≠ .idle := by
  rw [hb.state]
  split <;> simp

theorem BetweenChunks.fits : fitsU32 p := hb.inv.payload_fits hb.ne_idle hb.payload

theorem BetweenChunks.offset_le : s.tx.offset.toNat ≤ p.length := by
  have hoff := hb.inv.offset_place hb.ne_idle hb.payload
  rw [hb.state] at hoff
  split at hoff
  · exact hoff.le
  · exact Nat.le_of_lt hoff

/-- What is sent already is sent with no request. -/
theorem BetweenChunks.sentTo_self : s.sentTo p s.tx.offset.toNat [] = s := by
  have hsent : s.tx.bytesSent = s.tx.offset := hb.inv.1
  simpa [State.sentTo, ← hb.state] using congrArg (fun n => { s with tx := { s.tx with bytesSent := n } }) hsent.symm

theorem BetweenChunks.sumFree_false : s.tx.state.sumFree = false := by
  rw [hb.state]
  split <;> rfl

/-- Every place within the payload is one between chunks. -/
theorem BetweenChunks.sentTo {k : Nat} (hk : k ≤ p.length) (a : List TxRequest) : BetweenChunks p (s.sentTo p k a) := by
  have hoff := sentTo_offset_toNat hb.fits hk a s
  refine ⟨hb.inv.advance hb.sumFree_false (by split <;> rfl) rfl _ hb.payload ?place, hb.payload, by rw [hoff]; rfl⟩
  rw [show (BitVec.ofNat 32 k).toNat = k from hoff]
  split
  · assumption
  · exact Nat.lt_of_le_of_ne hk ‹_›

/-- A chunk write with its full count and its drain send one chunk of the longest length that R181 allows. -/
theorem BetweenChunks.runOps_fullChunk {n : Nat} (hlt : s.tx.offset.toNat < p.length)
    (hn : n = min s.params.maxChunkSize.toNat (p.length - s.tx.offset.toNat)) :
    runOps [.txChunkWrite (.count (BitVec.ofNat 32 n)), .txDrain .done] s =
      .next (s.sentTo p (s.tx.offset.toNat + n) (s.chunkRequests p n)) := by
  have hs : s.tx.state = .writeChunk := by rw [hb.state, if_neg hlt.ne]
  have hfit : p.length < 2 ^ 32 := hb.fits
  have hpos := chunkSize_pos s.params
  have hlen : n = (chunk s.params p s.tx.offset).length := hn.trans (chunk_length ..).symm
  have hnat : (BitVec.ofNat 32 n).toNat = n := Nat.mod_eq_of_lt (by omega)
  have hne : BitVec.ofNat 32 n ≠ 0 := BitVec.toNat_ne.mpr (hnat.trans_ne (show n ≠ 0 by omega))
  have hoff : s.tx.offset + BitVec.ofNat 32 n = BitVec.ofNat 32 (s.tx.offset.toNat + n) := by
    rw [BitVec.ofNat_add, BitVec.ofNat_toNat, BitVec.setWidth_eq]
  have hplace : (BitVec.ofNat 32 (s.tx.offset.toNat + n)).toNat = s.tx.offset.toNat + n :=
    Nat.mod_eq_of_lt (by omega)
  have hwire : (chunk s.params p s.tx.offset).take n = (p.take (s.tx.offset.toNat + n)).drop s.tx.offset.toNat := by
    rw [chunk_take _ _ _ _ hlen.le, List.drop_take, Nat.add_sub_cancel_left]
  rw [runOps_cons (exec_txChunkWrite_count_sent hs hb.payload hne (hnat.trans hlen).le),
    runOps_cons (exec_txDrain_done (p := p) ?drain ?payload), runOps_nil]
  case drain => rfl
  case payload => exact hb.payload
  have hsent : s.tx.bytesSent = s.tx.offset := hb.inv.1
  simp [State.sentTo, State.chunkRequests, wireDrain, State.request, State.setTx, State.wrote, hsent, hoff, hplace, hnat,
    hwire]

end

/-- One chunk more is one write more. -/
theorem ceilDiv_sub_min_add_one {c n : Nat} (hc : 0 < c) (hn : 0 < n) :
    1 + (n - min c n + c - 1) / c = (n + c - 1) / c := by
  have hsucc : (n + c - 1) / c = (n - 1) / c + 1 := by rw [← Nat.add_div_right _ hc, Nat.sub_add_comm hn]
  rcases Nat.le_total n c with h | h
  · rw [hsucc, Nat.min_eq_right h, Nat.div_eq_of_lt (by omega), Nat.div_eq_of_lt (by omega)]
  · rw [hsucc, Nat.min_eq_left h, Nat.sub_add_cancel h, Nat.add_comm]

@[simp] theorem fullChunks_zero (c fuel : Nat) : fullChunks c fuel 0 = [] := by
  cases fuel <;> rfl

/-- The rounds of full chunks send all that is left, one write for each `MAX_CHUNK_SIZE` bytes or part of that many. -/
theorem BetweenChunks.runOps_fullChunks {p : List Byte} : ∀ (fuel : Nat) {s : State}, BetweenChunks p s →
    p.length - s.tx.offset.toNat ≤ fuel →
    ∃ a, runOps (fullChunks s.params.maxChunkSize.toNat fuel (p.length - s.tx.offset.toNat)) s =
        .next (s.sentTo p p.length a) ∧
      a.countP TxRequest.isWrite =
        (p.length - s.tx.offset.toNat + s.params.maxChunkSize.toNat - 1) / s.params.maxChunkSize.toNat
  | fuel, s, hb, hfuel => by
    have hpos := chunkSize_pos s.params
    have hle := hb.offset_le
    rcases Nat.eq_or_lt_of_le hle with hall | hlt
    · refine ⟨[], ?_, ?_⟩
      · rw [← hall, hb.sentTo_self, Nat.sub_self, fullChunks_zero, runOps_nil]
      · rw [hall, Nat.sub_self, Nat.div_eq_of_lt (by omega), List.countP_nil]
    · cases fuel with
      | zero => omega
      | succ fuel =>
        obtain ⟨n, hn⟩ : ∃ n, n = min s.params.maxChunkSize.toNat (p.length - s.tx.offset.toNat) := ⟨_, rfl⟩
        have hmid : s.tx.offset.toNat + n ≤ p.length := by omega
        have hoff := sentTo_offset_toNat hb.fits hmid (s.chunkRequests p n) s
        obtain ⟨b, hrest, hcount⟩ := (hb.sentTo hmid (s.chunkRequests p n)).runOps_fullChunks fuel (by omega)
        rw [hoff, ← Nat.sub_sub] at hrest hcount
        rw [sentTo_sentTo hb.fits (Nat.le_add_right ..) hmid le_rfl] at hrest
        refine ⟨s.chunkRequests p n ++ b, ?_, ?_⟩
        · rw [fullChunks, if_neg (by omega), ← hn]
          exact (runOps_append (hb.runOps_fullChunk hlt hn)).trans hrest
        · rw [List.countP_append, hcount, hn]
          exact ceilDiv_sub_min_add_one hpos (by omega)

theorem exec_trailer_sentTo (p : List Byte) (a : List TxRequest) (s : State) :
    exec (.txTrlWrite (.count 2)) (s.sentTo p p.length a) =
      .next (finish .ok ((s.sentTo p p.length a).wrote [0xAD, 0xDE] (.count 2) 2 s.draws)) :=
  exec_txTrlWrite_full (if_pos rfl)

/-- The state that a good frame leads to, with the requests of its chunks. -/
theorem runOps_goodFrame {w ht f : U16} {p : List Byte} {s : State} (hp : fitsU32 p) (hs : s.tx.state = .idle) :
    ∃ a, runOps (.sendFrame w ht f p :: txRunOk s.params.maxChunkSize.toNat p.length) s =
        .next (finish .ok (((s.headerSent (frameHeader w ht f s.tx.frameId p) p).sentTo p p.length a).wrote
          [0xAD, 0xDE] (.count 2) 2 s.draws)) ∧
      a.countP TxRequest.isWrite = (p.length + s.params.maxChunkSize.toNat - 1) / s.params.maxChunkSize.toNat := by
  obtain ⟨a, hrun, hcount⟩ := (BetweenChunks.of_headerSent w ht f s hp).runOps_fullChunks p.length (Nat.sub_le _ _)
  have hops : .sendFrame w ht f p :: txRunOk s.params.maxChunkSize.toNat p.length =
      [.sendFrame w ht f p, .txCksum, .txHdrWrite (.count 20), .txDelayDone] ++
        (fullChunks s.params.maxChunkSize.toNat p.length p.length ++ [.txTrlWrite (.count 2)]) := rfl
  refine ⟨a, ?_, hcount⟩
  rw [hops, runOps_append (runOps_headerSent hp hs)]
  exact (runOps_append hrun).trans (runOps_cons (exec_trailer_sentTo ..))

/-- Settles O31: the end state is explicit; its requests are the header's, the chunks' and the trailer's. -/
theorem goodFrameWireImage : Obligations.GoodFrameWireImage := by
  intro s w ht f p hs hp
  obtain ⟨a, hrun, hcount⟩ := runOps_goodFrame hp hs
  refine ⟨_, hrun, ?wire, rfl, rfl, rfl, rfl, rfl,
    .write (hdrBytes (frameHeader w ht f s.tx.frameId p)) (.count 20) :: a ++ [.write [0xAD, 0xDE] (.count 2)],
    ?requests, ?writes⟩
  case wire => simp [State.headerSent, State.sentTo, frameHeader]
  case requests => simp [State.headerSent, State.sentTo]
  case writes =>
    rw [List.cons_append, List.countP_cons_of_pos rfl, List.countP_append, hcount, List.countP_cons_of_pos rfl,
      List.countP_nil]
    omega

end Sys2Proof.Machine
end

section
/-! PROOFS. The Frame Receiver (spec/44_frame_receiver.md R230 to R253; spec/10_state.md R40; spec/60_exceptions.md R301, R308,
R313; logs 7, 12, 23, 26). -/

namespace Sys2Proof.Machine

/-! ## One byte, from `rx_in` or from the replay queue (R231, R240, R241) -/

section
variable {b : Byte} {s : State} {rx : RxState}

theorem exec_rxByte_consumed (hr : rxReady s.rx = true)
    (hc : rxConsume s.params b { s.rx with input := s.rx.input ++ [b] } = .ok rx) :
    exec (.rxByte b) s = .next (s.setRx rx) := by
  rw [exec_rxByte_of_ready hr, takeByte, hc, liftRx]

theorem exec_rxByte_scanning (hs : s.rx.state = .scanning) (hq : s.rx.replay = [])
    (hc : scanStep b { s.rx with input := s.rx.input ++ [b] } = .ok rx) : exec (.rxByte b) s = .next (s.setRx rx) :=
  exec_rxByte_consumed (rxReady_of_takesBytes (by rw [hs]; rfl) hq) (by simpa only [rxConsume, hs] using hc)

theorem exec_rxByte_headerPartial (hs : s.rx.state = .headerPartial) (hq : s.rx.replay = [])
    (hc : headerStep s.params b { s.rx with input := s.rx.input ++ [b] } = rx) :
    exec (.rxByte b) s = .next (s.setRx rx) :=
  exec_rxByte_consumed (rxReady_of_takesBytes (by rw [hs]; rfl) hq)
    (by simpa only [rxConsume, hs] using congrArg Except.ok hc)

theorem exec_rxByte_payloadPartial (hs : s.rx.state = .payloadPartial) (hq : s.rx.replay = [])
    (hc : payloadStep b { s.rx with input := s.rx.input ++ [b] } = .ok rx) :
    exec (.rxByte b) s = .next (s.setRx rx) :=
  exec_rxByte_consumed (rxReady_of_takesBytes (by rw [hs]; rfl) hq) (by simpa only [rxConsume, hs] using hc)

theorem exec_rxByte_trailerPartial (hs : s.rx.state = .trailerPartial) (hq : s.rx.replay = [])
    (hc : trailerStep b { s.rx with input := s.rx.input ++ [b] } = .ok rx) :
    exec (.rxByte b) s = .next (s.setRx rx) :=
  exec_rxByte_consumed (rxReady_of_takesBytes (by rw [hs]; rfl) hq) (by simpa only [rxConsume, hs] using hc)

variable {r : List Byte}

theorem exec_rxReplay_consumed (hb : s.rx.state.takesBytes = true) (hr : s.rx.replay = b :: r)
    (hc : rxConsume s.params b { s.rx with replay := r } = .ok rx) : exec .rxReplay s = .next (s.setRx rx) := by
  rw [exec, execRxReplay, guarded_of_enabled (by simp [enabled, hb, hr]), hr]
  dsimp only
  rw [hc, liftRx]

theorem exec_rxReplay_scanning (hs : s.rx.state = .scanning) (hr : s.rx.replay = b :: r)
    (hc : scanStep b { s.rx with replay := r } = .ok rx) : exec .rxReplay s = .next (s.setRx rx) :=
  exec_rxReplay_consumed (by rw [hs]; rfl) hr (by simpa only [rxConsume, hs] using hc)

theorem exec_rxReplay_headerPartial (hs : s.rx.state = .headerPartial) (hr : s.rx.replay = b :: r)
    (hc : headerStep s.params b { s.rx with replay := r } = rx) : exec .rxReplay s = .next (s.setRx rx) :=
  exec_rxReplay_consumed (by rw [hs]; rfl) hr (by simpa only [rxConsume, hs] using congrArg Except.ok hc)

end

/-! ## Scanning (R232) -/

section
variable {b q : Byte} {rx : RxState}

theorem scanStep_noHistory (hv : rx.prevValid = false) : scanStep b rx = .ok (rx.remember b) := by
  simp [scanStep, hv]

theorem scanStep_noMarker (hv : rx.prevValid = true) (hp : rx.prev = some q) (hm : ¬(q = 0x55 ∧ b = 0xAA)) :
    scanStep b rx = .ok (rx.remember b) := by
  have hne : [q, b] ≠ le16 startMarker := by simpa [le16_startMarker] using hm
  simp [scanStep, hv, hp, hne]

end

/-- Settles O34: the history is absent, ends no marker with the byte, or is the marker's first byte. -/
theorem scanningTakesOneByte : Obligations.ScanningTakesOneByte := by
  intro s b q hs hq
  refine ⟨fun hv => ?noHistory, fun hv hp hm => ?noMarker, fun hv hp => ?marker⟩
  case noHistory => exact exec_rxByte_scanning hs hq (scanStep_noHistory hv)
  case noMarker => exact exec_rxByte_scanning hs hq (scanStep_noMarker hv hp hm)
  case marker => exact exec_rxByte_scanning hs hq (scanStep_secondByte hv hp)

/-! ## The header window (R233 to R235) -/

section
variable {p : Params} {b : Byte} {rx : RxState}

theorem headerStep_of_length_ne (hl : rx.win.length ≠ 19) :
    headerStep p b rx = { rx with win := rx.win ++ [b] } := by
  obtain ⟨-, h⟩ | ⟨w, hw, -⟩ := headerStep_cases p b rx
  · exact h
  · exact absurd (by simpa [hdrLen] using congrArg List.length hw) hl

theorem headerStep_decoded {w : Window} {h : Header} (hw : rx.win ++ [b] = w.toList)
    (hd : hdrDecode p.maxPayloadLen w = .ok h) : headerStep p b rx = headerOk h { rx with win := w.toList } := by
  rw [headerStep, hw, window?_toList]
  simp only [hd]

/-- With no replay pending the queue of a failed window is its bytes but the first. -/
theorem headerStep_failed {w : Window} {e : HdrError} (hq : rx.replay = []) (hw : rx.win ++ [b] = w.toList)
    (hd : hdrDecode p.maxPayloadLen w = .error e) : headerStep p b rx = { rx with
      win := w.toList, replay := w.toList.tail, err := some (headerFailure e w), state := .invalid } := by
  rw [headerStep, hw, window?_toList]
  simp [hd, headerBad, failRx, hq]

end

/-- Settles O35: the window is not full yet, decodes, or fails for one of two reasons. -/
theorem headerWindowStep : Obligations.HeaderWindowStep := by
  intro s b hs hq
  refine ⟨fun hl => ?gathered, fun w h hw hd => ?decoded, fun w hw hd => ?malformed, fun w hw hd => ?tooLarge⟩
  case gathered => exact exec_rxByte_headerPartial hs hq (headerStep_of_length_ne hl)
  case decoded =>
    have hz : h.dataLength.toNat = 0 ↔ h.dataLength = 0 := by simp [BitVec.toNat_eq]
    simp only [hz]
    exact exec_rxByte_headerPartial hs hq (headerStep_decoded hw hd)
  case malformed => exact exec_rxByte_headerPartial hs hq (headerStep_failed (e := .malformedHeader) hq hw hd)
  case tooLarge => exact exec_rxByte_headerPartial hs hq (headerStep_failed (e := .payloadTooLarge) hq hw hd)

/-! ## The payload (R236) -/

section
variable {b : Byte} {h : Header}

theorem payloadStep_more {rx : RxState} (hh : rx.hdr = some h) (hl : rx.payload.length + 1 ≠ h.dataLength.toNat) :
    payloadStep b rx = .ok { rx with payload := rx.payload ++ [b], sum := ckAddByte rx.sum b } := by
  simp [payloadStep, hh, hl]

theorem payloadStep_last {rx : RxState} (hh : rx.hdr = some h) (hl : rx.payload.length + 1 = h.dataLength.toNat) :
    payloadStep b rx = .ok { rx with
      payload := rx.payload ++ [b], sum := ckAddByte rx.sum b, trl := [], state := .trailerPartial } := by
  simp [payloadStep, hh, hl]

variable {s : State} (hs : s.rx.state = .payloadPartial) (hq : s.rx.replay = []) (hh : s.rx.hdr = some h)
include hs hq hh

theorem exec_rxByte_payload_more (hl : s.rx.payload.length + 1 ≠ h.dataLength.toNat) :
    exec (.rxByte b) s = .next (s.setRx { s.rx with
      input := s.rx.input ++ [b], payload := s.rx.payload ++ [b], sum := ckAddByte s.rx.sum b }) :=
  exec_rxByte_payloadPartial hs hq (payloadStep_more hh hl)

theorem exec_rxByte_payload_last (hl : s.rx.payload.length + 1 = h.dataLength.toNat) :
    exec (.rxByte b) s = .next (s.setRx { s.rx with
      input := s.rx.input ++ [b], payload := s.rx.payload ++ [b], sum := ckAddByte s.rx.sum b, trl := []
      state := .trailerPartial }) :=
  exec_rxByte_payloadPartial hs hq (payloadStep_last hh hl)

end

/-- Settles O36: the byte is the payload's last or it is not. -/
theorem payloadByteStep : Obligations.PayloadByteStep := by
  intro s b h hs hq hh
  rw [← ckAddByte_eq_ofNat]
  exact ⟨exec_rxByte_payload_more hs hq hh, exec_rxByte_payload_last hs hq hh⟩

/-! ## The trailer (R237) -/

theorem trailerStep_mismatch {b t0 : Byte} {rx : RxState} {h : Header} (ht : rx.trl = [t0]) (hh : rx.hdr = some h)
    (hm : ¬(t0 = 0xAD ∧ b = 0xDE)) :
    trailerStep b rx = .ok (failRx (trailerFailure h #v[t0, b] rx) { rx with trl := [t0, b] }) := by
  have hx : exactly? trlLen [t0, b] = some #v[t0, b] := exactly?_toList #v[t0, b]
  have hne : [t0, b] ≠ le16 trailerMarker := by simpa [le16_trailerMarker] using hm
  rw [trailerStep, ht, List.singleton_append, hx]
  simp [hne, hh]

/-- Settles O37: the byte is the trailer's first, completes the marker, or makes another pair. -/
theorem trailerByteStep : Obligations.TrailerByteStep := by
  intro s b t0 h hs hq hh
  refine ⟨fun ht => ?first, fun ht => ?marker, fun ht hm => ?mismatch⟩
  case first => exact exec_rxByte_trailerPartial hs hq (trailerStep_firstByte ht)
  case marker => exact exec_rxByte_trailerPartial hs hq (trailerStep_secondByte ht)
  case mismatch => exact exec_rxByte_trailerPartial hs hq (trailerStep_mismatch ht hh hm)

/-! ## Replay (R241) -/

/-- Settles O38: the byte function is the one of `RX_BYTE`; only where the byte comes from differs. -/
theorem replayTakesQueueHead : Obligations.ReplayTakesQueueHead := by
  intro s b q r hr
  refine ⟨fun hs hv => ?noHistory, fun hs hv hp hm => ?noMarker, fun hs hv hp hb => ?marker, fun hs hl => ?window⟩
  case noHistory => exact exec_rxReplay_scanning hs hr (scanStep_noHistory hv)
  case noMarker => exact exec_rxReplay_scanning hs hr (scanStep_noMarker hv hp hm)
  case marker =>
    subst hb
    exact exec_rxReplay_scanning hs hr (scanStep_secondByte hv hp)
  case window => exact exec_rxReplay_headerPartial hs hr (headerStep_of_length_ne hl)

/-! ## Settling (R242 to R244) -/

section
variable {s : State}

theorem exec_rxSettle_complete (hs : s.rx.state = .complete) : exec .rxSettle s = settleComplete s := by
  rw [exec, execRxSettle, guarded_of_enabled (by simp [enabled, hs, RxSt.takesBytes]), if_pos hs]

theorem exec_rxSettle_invalid (hs : s.rx.state = .invalid) : exec .rxSettle s = settleInvalid s := by
  rw [exec, execRxSettle, guarded_of_enabled (by simp [enabled, hs, RxSt.takesBytes]), if_neg (by simp [hs])]

theorem exec_rxSettle_delivers {h : Header} (hs : s.rx.state = .complete) (hh : s.rx.hdr = some h)
    (hsum : s.rx.sum = h.checksum) : exec .rxSettle s =
      .next ((s.emitRx (.frameOk h.frameId h.width h.height h.pixelFormat h.checksum s.rx.payload)).setRx
        { clearFrame (s.rx.recordId h.frameId) with state := .scanning }) := by
  rw [exec_rxSettle_complete hs, settleComplete, hh]
  exact if_pos hsum

theorem exec_rxSettle_mismatch {h : Header} (hs : s.rx.state = .complete) (hh : s.rx.hdr = some h)
    (hsum : s.rx.sum ≠ h.checksum) : exec .rxSettle s =
      .next (s.setRx (failRx (.checksumMismatch h.frameId h.dataLength h.checksum s.rx.sum) s.rx)) := by
  rw [exec_rxSettle_complete hs, settleComplete, hh]
  exact if_neg hsum

theorem exec_rxSettle_reports {e : RxError} (hs : s.rx.state = .invalid) (he : s.rx.err = some e) :
    exec .rxSettle s = .next ((s.emitRx (.frameError e)).setRx { clearFrame s.rx with state := .scanning }) := by
  rw [exec_rxSettle_invalid hs, settleInvalid, he]

end

/-- Settles O39: the two sums agree or they do not. -/
theorem settleCompleteResult : Obligations.SettleCompleteResult := fun _ _ hs hh =>
  ⟨exec_rxSettle_delivers hs hh, exec_rxSettle_mismatch hs hh⟩

/-- Settles O40. -/
theorem settleInvalidResult : Obligations.SettleInvalidResult := fun _ _ => exec_rxSettle_reports

/-! ## The timeout (R245) -/

theorem abandon_headerPartial {rx : RxState} (hs : rx.state = .headerPartial) :
    abandon rx = .ok (failRx (.rxTimeout rx.state (BitVec.ofNat 32 (received rx)) none) rx) := if_pos hs

theorem abandon_decoded {rx : RxState} {h : Header} (hs : rx.state ≠ .headerPartial) (hh : rx.hdr = some h) :
    abandon rx = .ok (failRx (.rxTimeout rx.state (BitVec.ofNat 32 (received rx)) (some h.frameId)) rx) := by
  rw [abandon, if_neg hs, hh, need_some]

section
variable {s : State}

theorem exec_rxTimeout_abandoned {rx : RxState} (hp : s.rx.state.partialFrame = true) (hq : s.rx.replay = [])
    (ha : abandon s.rx = .ok rx) : exec .rxTimeout s = .next (s.setRx rx) := by
  rw [exec, execRxTimeout, guarded_of_enabled rfl, if_pos (by simp [hp, hq]), ha, liftRx]

theorem exec_rxTimeout_unchanged (hn : s.rx.state.partialFrame = false ∨ s.rx.replay ≠ []) :
    exec .rxTimeout s = .next s := by
  rw [exec, execRxTimeout, guarded_of_enabled rfl, if_neg]
  rcases hn with hn | hn <;> simp [hn]

end

/-- Settles O41: the record is its code alone; a partial frame is abandoned before its header or after it. -/
theorem timeoutResult : Obligations.TimeoutResult := by
  refine ⟨decode_byte .rxTimeout, fun s h => ⟨fun hs hq => ?header, fun hs hq hh => ?payload, fun hs hq hh => ?trailer,
    fun hn => ?unchanged⟩⟩
  case header =>
    rw [exec_rxTimeout_abandoned (by rw [hs]; rfl) hq (abandon_headerPartial hs)]
    simp [failRx, received, hs, State.setRx]
  case payload =>
    rw [exec_rxTimeout_abandoned (by rw [hs]; rfl) hq (abandon_decoded (by simp [hs]) hh)]
    simp [failRx, received, hs, State.setRx]
  case trailer =>
    rw [exec_rxTimeout_abandoned (by rw [hs]; rfl) hq (abandon_decoded (by simp [hs]) hh)]
    simp [failRx, received, hs, State.setRx]
  case unchanged =>
    refine exec_rxTimeout_unchanged ?_
    rcases hn with hs | hs | hs | hq
    · exact .inl (by rw [hs]; rfl)
    · exact .inl (by rw [hs]; rfl)
    · exact .inl (by rw [hs]; rfl)
    · exact .inr hq

/-! ## How one operation moves RX (R230, R246, R308) -/

/-- The arrows of R230 along which a byte moves RX. -/
def byteArrows : List (RxSt × RxSt) :=
  [(.scanning, .headerPartial), (.headerPartial, .payloadPartial), (.headerPartial, .trailerPartial),
   (.headerPartial, .invalid), (.payloadPartial, .trailerPartial), (.trailerPartial, .complete),
   (.trailerPartial, .invalid)]

theorem headerOk_state (h : Header) (rx : RxState) :
    (headerOk h rx).state = .trailerPartial ∨ (headerOk h rx).state = .payloadPartial :=
  ite_eq_or_eq _ _ _

theorem rxConsume_arrow {p : Params} {b : Byte} {rx rx' : RxState} (h : rxConsume p b rx = .ok rx') :
    rx'.state = rx.state ∨ (rx.state, rx'.state) ∈ byteArrows := by
  unfold rxConsume at h
  split at h <;> rename_i hs
  · obtain ⟨-, -, -, rfl⟩ | rfl := scanStep_ok h
    · exact .inr (by simp [hs, byteArrows])
    · exact .inl rfl
  · cases h
    obtain ⟨-, hx⟩ | ⟨w, -, ⟨hd, -, hx⟩ | ⟨e, -, hx⟩⟩ := headerStep_cases p b rx <;> rw [hx]
    · exact .inl rfl
    · right
      rcases headerOk_state hd { rx with win := rx.win ++ [b] } with hst | hst <;> rw [hst, hs] <;> simp [byteArrows]
    · exact .inr (by simp [headerBad, hs, byteArrows])
  · obtain ⟨hd, -, ⟨-, rfl⟩ | ⟨-, rfl⟩⟩ := payloadStep_ok h
    · exact .inr (by simp [hs, byteArrows])
    · exact .inl rfl
  · obtain ⟨-, -, rfl⟩ | ⟨t0, hd, -, -, -, rfl⟩ | ⟨-, rfl⟩ := trailerStep_ok h
    · exact .inr (by simp [hs, byteArrows])
    · exact .inr (by simp [hs, byteArrows])
    · exact .inl rfl
  · cases h
    exact .inl rfl
  · cases h
    exact .inl rfl

/-- An operation that is neither the RX agent's nor `RESET` writes of the receiver at most an accumulator, and emits no
event. -/
theorem exec_rx_of_shared {i : Instr} {s t : State} (hi : i.isRx = false) (hne : i ≠ .reset)
    (h : exec i s = .next t) : t.rxEv = s.rxEv ∧ ∃ v, t.rx = { s.rx with sum := v } := by
  have accumulators (u : CkUnit) (v : U32) :
      (s.setAcc u v).rxEv = s.rxEv ∧ ∃ v', (s.setAcc u v).rx = { s.rx with sum := v' } :=
    ⟨setAcc_rxEv u v s, _, setAcc_rx u v s⟩
  cases i with
  | rxByte | rxReplay | rxSettle | rxTimeout | wireHeader | wireTrailer | wireStart => simp [Instr.isRx] at hi
  | sendFrame | txCksum | txHdrWrite | txDelayDone | txChunkWrite | txDrain | txTrlWrite =>
    obtain ⟨hrx, hev, -⟩ := exec_tx_frame rfl h
    exact ⟨hev, s.rx.sum, hrx⟩
  | cksum | hdrEncode | hdrDecode | txStatus | rxStatus =>
    obtain ⟨r, rfl⟩ := exec_read rfl h
    exact ⟨rfl, s.rx.sum, rfl⟩
  | ckClear u =>
    obtain ⟨-, rfl⟩ | ⟨-, rfl⟩ := execCkClear_next h
    · exact accumulators u _
    · exact ⟨rfl, s.rx.sum, rfl⟩
  | ckAdd u b =>
    obtain ⟨-, rfl⟩ | ⟨-, rfl⟩ := execCkAdd_next h
    · exact accumulators u _
    · exact ⟨rfl, s.rx.sum, rfl⟩
  | reset => exact absurd rfl hne

/-- Settles O44: a byte moves RX along an arrow of the byte function, whether it is taken or replayed. -/
theorem rxTransitions : Obligations.RxTransitions := by
  intro i s t h hne hport
  cases i with
  | rxByte b =>
    obtain ⟨-, rx, hc, rfl⟩ | ⟨-, rfl⟩ := execRxByte_next h
    · exact (rxConsume_arrow hc).imp id fun ha => .inl ⟨.inr ⟨b, rfl⟩, ha⟩
    · exact .inl rfl
  | rxReplay =>
    obtain ⟨b, r, rx, -, -, hc, rfl⟩ | ⟨-, rfl⟩ := execRxReplay_next h
    · exact (rxConsume_arrow hc).imp id fun ha => .inl ⟨.inl rfl, ha⟩
    · exact .inl rfl
  | rxSettle =>
    obtain ⟨hs, hd, -, ⟨-, rfl⟩ | ⟨-, rfl⟩⟩ | ⟨hs, e, -, rfl⟩ | ⟨-, rfl⟩ := execRxSettle_next h
    · exact .inr (.inr (.inl ⟨rfl, by simp [hs]⟩))
    · exact .inr (.inr (.inl ⟨rfl, by simp [hs]⟩))
    · exact .inr (.inr (.inl ⟨rfl, by simp [hs]⟩))
    · exact .inl rfl
  | rxTimeout =>
    obtain ⟨hp, -, f, -, -, rfl⟩ | ⟨-, rfl⟩ := execRxTimeout_next h
    · refine .inr (.inr (.inr ⟨rfl, ?_⟩))
      cases hs : s.rx.state <;> simp [hs, RxSt.partialFrame] at hp ⊢
    · exact .inl rfl
  | wireHeader | wireTrailer | wireStart => cases hport
  | _ =>
    obtain ⟨-, v, hrx⟩ := exec_rx_of_shared rfl hne h
    exact .inl (by rw [hrx])

/-- A block of bytes emits nothing and records no identifier, whether it is taken or waits. -/
theorem guarded_feed_quiet {i : Instr} {bs : List Byte} {s t : State} (h : guarded i s (feed bs s) = .next t) :
    t.rxEv = s.rxEv ∧ t.rx.lastId = s.rx.lastId ∧ t.rx.lastIdValid = s.rx.lastIdValid := by
  obtain ⟨-, hf⟩ | ⟨-, rfl⟩ := guarded_next h
  · have hkeeps (p : Params) (b : Byte) (rx rx' : RxState)
        (hrx : rx.lastId = s.rx.lastId ∧ rx.lastIdValid = s.rx.lastIdValid) (_ : rxReady rx = true)
        (hc : rxConsume p b { rx with input := rx.input ++ [b] } = .ok rx') :
        rx'.lastId = s.rx.lastId ∧ rx'.lastIdValid = s.rx.lastIdValid := by
      obtain ⟨hid, hv, -⟩ := rxConsume_frame hc
      exact ⟨hid.trans hrx.1, hv.trans hrx.2⟩
    obtain ⟨hid, rx, r, rfl⟩ := feed_next hkeeps ⟨rfl, rfl⟩ hf
    exact ⟨rfl, hid⟩
  · simp

/-- Settles O45: a byte touches neither the events nor the last identifier, and each settle has its own equation. -/
theorem oneEventPerSettle : Obligations.OneEventPerSettle := by
  intro i s t h hne
  cases i with
  | rxByte b =>
    obtain ⟨-, rx, hc, rfl⟩ | ⟨-, rfl⟩ := execRxByte_next h
    · obtain ⟨hid, hv, -⟩ := rxConsume_frame hc
      exact .inl ⟨rfl, hid, hv⟩
    · exact .inl ⟨rfl, rfl, rfl⟩
  | rxReplay =>
    obtain ⟨b, r, rx, -, -, hc, rfl⟩ | ⟨-, rfl⟩ := execRxReplay_next h
    · obtain ⟨hid, hv, -⟩ := rxConsume_frame hc
      exact .inl ⟨rfl, hid, hv⟩
    · exact .inl ⟨rfl, rfl, rfl⟩
  | rxSettle =>
    obtain ⟨hs, hd, hh, ⟨hsum, rfl⟩ | ⟨-, rfl⟩⟩ | ⟨hs, e, he, rfl⟩ | ⟨-, rfl⟩ := execRxSettle_next h
    · exact .inr (.inl ⟨rfl, hs, rfl, hd, hh, hsum, rfl, rfl, rfl⟩)
    · exact .inl ⟨rfl, rfl, rfl⟩
    · exact .inr (.inr ⟨rfl, hs, rfl, rfl, rfl, e, he, rfl⟩)
    · exact .inl ⟨rfl, rfl, rfl⟩
  | rxTimeout =>
    obtain ⟨-, -, f, -, -, rfl⟩ | ⟨-, rfl⟩ := execRxTimeout_next h
    · exact .inl ⟨rfl, rfl, rfl⟩
    · exact .inl ⟨rfl, rfl, rfl⟩
  | wireHeader | wireTrailer | wireStart => exact .inl (guarded_feed_quiet h)
  | _ =>
    obtain ⟨hev, v, hrx⟩ := exec_rx_of_shared rfl hne h
    exact .inl ⟨hev, by rw [hrx], by rw [hrx]⟩

/-! ## A whole frame (R248, R250) -/

/-- A block that is taken whole is its bytes taken one at a time, whatever waits behind it. -/
theorem runOps_rxByte_of_feed : ∀ (bs : List Byte) {s t : State}, feed bs s = .next t → t.rxIn = s.rxIn →
    runOps (bs.map .rxByte) s = .next t
  | [], _, _, h, _ => h
  | b :: r, s, t, h, hin => by
    cases hr : rxReady s.rx with
    | true =>
      rw [feed, if_pos hr] at h
      split at h
      · rename_i u hu
        obtain ⟨rx, -, rfl⟩ := takeByte_next hu
        rw [List.map_cons, runOps_cons ((exec_rxByte_of_ready hr).trans hu)]
        exact runOps_rxByte_of_feed r h hin
      · cases h
      · cases h
    | false =>
      simp only [feed, hr, Bool.false_eq_true, if_false] at h
      cases h
      exact absurd (congrArg List.length hin) (by simp; omega)

/-- The payload bytes that are still to come fill the payload and the sum, and the trailer begins. -/
theorem runOps_payload {h : Header} : ∀ (bs : List Byte) {s : State}, bs ≠ [] → s.rx.state = .payloadPartial →
    s.rx.replay = [] → s.rx.hdr = some h → s.rx.payload.length + bs.length = h.dataLength.toNat →
    runOps (bs.map .rxByte) s = .next (s.setRx { s.rx with
      input := s.rx.input ++ bs, payload := s.rx.payload ++ bs, sum := bs.foldl ckAddByte s.rx.sum, trl := []
      state := .trailerPartial })
  | [], _, hne, _, _, _, _ => absurd rfl hne
  | [b], s, _, hs, hq, hh, hl => runOps_cons (exec_rxByte_payload_last hs hq hh hl)
  | b :: c :: bs, s, _, hs, hq, hh, hl => by
    simp only [List.length_cons] at hl
    have hrest : (s.rx.payload ++ [b]).length + (c :: bs).length = h.dataLength.toNat := by simp; omega
    calc runOps ((b :: c :: bs).map .rxByte) s
      _ = runOps ((c :: bs).map .rxByte) (s.setRx { s.rx with
            input := s.rx.input ++ [b], payload := s.rx.payload ++ [b], sum := ckAddByte s.rx.sum b }) :=
        runOps_cons (exec_rxByte_payload_more hs hq hh (by omega))
      _ = .next (s.setRx { s.rx with
            input := s.rx.input ++ [b] ++ c :: bs, payload := s.rx.payload ++ [b] ++ c :: bs
            sum := (c :: bs).foldl ckAddByte (ckAddByte s.rx.sum b), trl := [], state := .trailerPartial }) :=
        runOps_payload (c :: bs) (List.cons_ne_nil c bs) hs hq hh hrest
      _ = .next (s.setRx { s.rx with
            input := s.rx.input ++ b :: c :: bs, payload := s.rx.payload ++ b :: c :: bs
            sum := (b :: c :: bs).foldl ckAddByte s.rx.sum, trl := [], state := .trailerPartial }) := by
        rw [List.append_assoc, List.append_assoc, List.singleton_append]
        rfl

/-- The receiver once a frame's header and payload are taken. -/
def RxState.payloadTaken (h : Header) (payload : List Byte) (rx : RxState) : RxState :=
  { rx with
    input := rx.input ++ hdrBytes h ++ payload, prevValid := false, prev := none, win := [], hdr := some h
    payload := payload, sum := cksum payload, trl := [], state := .trailerPartial }

/-- The receiver in `Complete` with a frame taken, its sums not compared yet. -/
def RxState.frameTaken (h : Header) (payload : List Byte) (rx : RxState) : RxState :=
  { rx with
    input := rx.input ++ wireImage h payload, prevValid := false, prev := none, win := [], hdr := some h
    payload := payload, sum := cksum payload, trl := le16 trailerMarker, state := .complete }

section
variable {s : State} {h : Header} {payload : List Byte} (hi : RxInv s.params s.rx) (hs : s.rx.state = .scanning)
  (hq : s.rx.replay = []) (hl : h.dataLength.toNat = payload.length) (hm : h.dataLength ≤ s.params.maxPayloadLen)
include hi hs hq hl hm

/-- The header opens the payload, or the trailer where there is no payload. -/
theorem runOps_header_payload :
    runOps ((hdrBytes h ++ payload).map .rxByte) s = .next (s.setRx (s.rx.payloadTaken h payload)) := by
  have hhdr := runOps_rxByte_of_feed _ (feed_hdrBytes hs hq hi.prev_some hm) rfl
  rw [List.map_append, runOps_append hhdr]
  by_cases hp : payload = []
  · have hz : h.dataLength = 0 := BitVec.eq_of_toNat_eq (by simp [hl, hp])
    simp [hp, hz, headerOk, RxState.payloadTaken, openWindow, RxState.forget]
  · have hz : h.dataLength ≠ 0 := fun h0 => hp (List.length_eq_zero_iff.mp (by simp [← hl, h0]))
    have hstate : (s.setRx (headerOk h (openWindow { s.rx with input := s.rx.input ++ hdrBytes h }))).rx.state =
        .payloadPartial := if_neg hz
    exact (runOps_payload payload hp hstate hq rfl (by simp [State.setRx, headerOk, hl])).trans rfl

theorem runOps_wireImage :
    runOps ((wireImage h payload).map .rxByte) s = .next (s.setRx (s.rx.frameTaken h payload)) := by
  have htrl : feed (le16 trailerMarker) (s.setRx (s.rx.payloadTaken h payload)) =
      .next (s.setRx (s.rx.frameTaken h payload)) := by
    rw [feed_trailerMarker (s := s.setRx (s.rx.payloadTaken h payload)) rfl hq rfl]
    simp [RxState.frameTaken, RxState.payloadTaken, State.setRx, wireImage, le16_trailerMarker]
  rw [wireImage, List.map_append, runOps_append (runOps_header_payload hi hs hq hl hm)]
  exact runOps_rxByte_of_feed _ htrl rfl

theorem runOps_frame_mismatch (hsum : cksum payload ≠ h.checksum) :
    runOps ((wireImage h payload).map .rxByte ++ [.rxSettle, .rxSettle]) s =
      .next ((s.emitRx (.frameError (.checksumMismatch h.frameId h.dataLength h.checksum (cksum payload)))).setRx
        { clearFrame (s.rx.frameTaken h payload) with state := .scanning }) := by
  rw [runOps_append (runOps_wireImage hi hs hq hl hm), runOps_cons (exec_rxSettle_mismatch rfl rfl hsum),
    runOps_cons (exec_rxSettle_reports rfl rfl), runOps_nil]
  rfl

end

/-- Settles O46: the frame is taken whole, its sum is the header's checksum, and the settle delivers it. The buffers it clears
were empty before the frame, for the receiver scanned. -/
theorem loopback : Obligations.Loopback := by
  intro s h payload hi hs hq hl hm hsum
  refine ⟨none, ?_⟩
  rw [runOps_append (runOps_wireImage hi hs hq hl hm), runOps_cons (exec_rxSettle_delivers rfl rfl hsum.symm),
    runOps_nil]
  obtain ⟨-, -, hbuf⟩ := hi
  simp only [hs] at hbuf
  obtain ⟨hw, hp, ht, hh, he, -⟩ := hbuf
  simp [State.setRx, State.emitRx, clearFrame, RxState.forget, RxState.recordId, RxState.frameTaken, hs, hw, hp, ht,
    hh, he]

/-- Settles O47: the frame is taken whole, and its sum is not the header's checksum (R145). -/
theorem oneByteCorruptionIsReported : Obligations.OneByteCorruptionIsReported := by
  intro s h before after a b hi hs hq hab hl hm hsum
  have hne : cksum (before ++ b :: after) ≠ h.checksum := hsum ▸ cksum_changed_byte_ne before after hab.symm
  exact ⟨_, runOps_frame_mismatch hi hs hq (by simpa using hl) hm hne, rfl, rfl, rfl, rfl⟩

/-! ## A truncated frame (R252) -/

/-- A receiver that meets its invariants has in every partial state what the timeout's detail is made of. -/
theorem abandon_of_rxInv {p : Params} {rx : RxState} (hi : RxInv p rx) (hp : rx.state.partialFrame = true) :
    ∃ f, abandon rx = .ok (failRx (.rxTimeout rx.state (BitVec.ofNat 32 (received rx)) f) rx) := by
  by_cases hs : rx.state = .headerPartial
  · exact ⟨_, abandon_headerPartial hs⟩
  · have hdecoded : rx.state = .payloadPartial ∨ rx.state = .trailerPartial := by
      cases hx : rx.state <;> simp_all [RxSt.partialFrame]
    obtain ⟨h, hh⟩ := hi.hdr_some (hdecoded.imp_right .inl)
    exact ⟨_, abandon_decoded hs hh⟩

theorem runOps_timeout_settle {s : State} (hi : RxInv s.params s.rx) (hp : s.rx.state.partialFrame = true)
    (hq : s.rx.replay = []) : ∃ f, runOps [.rxTimeout, .rxSettle] s =
      .next ((s.emitRx (.frameError (.rxTimeout s.rx.state (BitVec.ofNat 32 (received s.rx)) f))).setRx
        { clearFrame s.rx with state := .scanning }) := by
  obtain ⟨f, ha⟩ := abandon_of_rxInv hi hp
  refine ⟨f, ?_⟩
  rw [runOps_cons (exec_rxTimeout_abandoned hp hq ha), runOps_cons (exec_rxSettle_reports rfl rfl), runOps_nil]
  rfl

/-- Settles O48: the timeout records the failure and the settle reports it with every buffer cleared. -/
theorem truncatedFrameIsReported : Obligations.TruncatedFrameIsReported := by
  intro s hi hp hq
  obtain ⟨f, hrun⟩ := runOps_timeout_settle hi hp hq
  exact ⟨_, _, _, f, hrun, rfl, rfl, rfl, hq, rfl, rfl, rfl⟩

end Sys2Proof.Machine
end

section
/-! PROOFS. The status words (spec/45_status.md R270, R271; spec/10_state.md R41; log 5). -/

namespace Sys2Proof.Machine

/-! ## The words as numbers (R41) -/

theorem zext32_toNat {n : Nat} (v : BitVec n) (hn : n ≤ 32) : (zext32 v).toNat = v.toNat :=
  BitVec.toNat_setWidth_of_le hn

/-- A field above a word of `k` bits that fits below it: the bits do not overlap, so the word is their sum. -/
theorem zext32_shiftLeft_or_toNat {n k : Nat} (hi : BitVec n) {lo : U32} (hlo : lo.toNat < 2 ^ k)
    (hfit : n + k ≤ 32) : (zext32 hi <<< k ||| lo).toNat = 2 ^ k * hi.toNat + lo.toNat := by
  have hshift : 2 ^ k * hi.toNat < 2 ^ 32 := calc
    2 ^ k * hi.toNat < 2 ^ k * 2 ^ n := Nat.mul_lt_mul_of_pos_left hi.isLt (Nat.two_pow_pos k)
    _ = 2 ^ (n + k) := by rw [← Nat.pow_add, Nat.add_comm]
    _ ≤ 2 ^ 32 := Nat.pow_le_pow_right (by decide) hfit
  rw [BitVec.toNat_or, BitVec.toNat_shiftLeft, zext32_toNat hi (by omega), Nat.shiftLeft_eq, Nat.mul_comm,
    Nat.mod_eq_of_lt hshift, Nat.two_pow_add_eq_or_of_lt hlo]

theorem txStat_toNat (tx : TxState) : (txStat tx).toNat = 2 ^ 16 * tx.frameId.toNat + tx.state.code.toNat := by
  have hcode : (zext32 tx.state.code).toNat = tx.state.code.toNat := zext32_toNat _ (by decide)
  rw [txStat, zext32_shiftLeft_or_toNat _ (by omega) (by decide), hcode]

theorem rxStat_toNat (rx : RxState) :
    (rxStat rx).toNat = 2 ^ 16 * (if rx.lastIdValid then rx.lastId.toNat else 0) +
      (2 ^ 3 * (if rx.lastIdValid then 1 else 0) + rx.state.code.toNat) := by
  have hcode : (zext32 rx.state.code).toNat = rx.state.code.toNat := zext32_toNat _ (by decide)
  have hlow : (zext32 (BitVec.ofBool rx.lastIdValid) <<< 3 ||| zext32 rx.state.code).toNat =
      2 ^ 3 * (BitVec.ofBool rx.lastIdValid).toNat + rx.state.code.toNat := by
    rw [zext32_shiftLeft_or_toNat _ (by omega) (by decide), hcode]
  rw [rxStat, BitVec.or_assoc, zext32_shiftLeft_or_toNat _ (by omega) (by decide), hlow]
  cases rx.lastIdValid <;> rfl

/-! ## The two reads (R270, R271) -/

/-- Settles O49: TXSTAT is the counter above the state's code, so division by powers of two reads the fields back. -/
theorem txStatusWord : Obligations.TxStatusWord := by
  intro s
  have hword := txStat_toNat s.tx
  refine ⟨txStat s.tx, rfl, ?_, by omega, by omega⟩
  calc (txStat s.tx).toNat % 8 = s.tx.state.code.toNat := by omega
    _ = _ := by cases s.tx.state <;> rfl

/-- Settles O50: RXSTAT is the last identifier above its valid bit above the state's code, and division by powers of two
reads the fields back. -/
theorem rxStatusWord : Obligations.RxStatusWord := by
  intro s
  have hword := rxStat_toNat s.rx
  have hbit : (if s.rx.lastIdValid then 1 else 0) ≤ 1 := by split <;> decide
  refine ⟨rxStat s.rx, rfl, ?_, by omega, by omega, by omega⟩
  calc (rxStat s.rx).toNat % 8 = s.rx.state.code.toNat := by omega
    _ = _ := by cases s.rx.state <;> rfl

end Sys2Proof.Machine
end

section
/-! PROOFS. A block with nothing enabled waits (spec/60_exceptions.md R321; spec/70_reset_and_hazards.md R347; log 1). -/

namespace Sys2Proof.Machine

theorem step_of_nextOp_none {s : State} (h : nextOp s = .ok none) : step s = .next s := by
  rw [step, h]

/-- With TX outside `Checksum` and RX taking bytes with none to replay, no internal step is enabled. -/
theorem internal_none {s : State} (hc : s.tx.state ≠ .checksum) (hb : s.rx.state.takesBytes = true)
    (hr : s.rx.replay = []) : internal s = none := by
  simp [internal, enabled, hc, hb, hr]

theorem step_nothing_enabled {s : State} (ht : s.trace = []) (hh : ∀ h ∈ s.held, enabled h s = false)
    (hin : s.rxIn = []) (hc : s.tx.state ≠ .checksum) (hb : s.rx.state.takesBytes = true) (hr : s.rx.replay = []) :
    step s = .next s :=
  have hn : nextOp s = .ok (internal s) := nextOp_internal ht (lift_none hh (.inl hin))
  step_of_nextOp_none (hn.trans (congrArg _ (internal_none hc hb hr)))

/-- Settles O7: with nothing lifted and no internal step `nextOp` names no operation, and a quiescent block is such a
block, with an empty hold, TX in `Idle` and RX in `Scanning`. -/
theorem nothingEnabledWaits : Obligations.NothingEnabledWaits := by
  refine ⟨fun s => step_nothing_enabled, fun s hq => ?_⟩
  obtain ⟨htx, hrx, hr, hheld, ht, hin⟩ := hq
  have hidle : s.tx.state ≠ .checksum := by simp [htx]
  have hscan : s.rx.state.takesBytes = true := by rw [hrx]; rfl
  exact step_nothing_enabled ht (by simp [hheld]) hin hidle hscan hr

end Sys2Proof.Machine
end

section
/-! PROOFS. Reset (spec/70_reset_and_hazards.md R340 to R342, R346; logs 2, 4, 5, 6) and the end of every frame in a bounded
number of sequencer steps (R358; spec/43_frame_sender.md R201). -/

namespace Sys2Proof.Machine

/-! ## Reset (R340, R341, R346) -/

theorem exec_reset (s : State) : exec .reset s = .next s.afterReset := execReset_eq s

/-- Settles O51: `RESET` waits for nothing, and `afterReset` puts the table's values in. -/
theorem resetResult : Obligations.ResetResult := exec_reset

/-- With no command held the state after `RESET` is a clean entry. -/
theorem cleanEntry_afterReset {s : State} (h : s.held = []) : CleanEntry s.afterReset :=
  ⟨rfl, rfl, h, rfl, rfl, rfl, rfl, rfl⟩

theorem cleanEntry_reset : CleanEntry State.reset := ⟨rfl, rfl, rfl, rfl, rfl, rfl, rfl, rfl⟩

/-- Settles O52: the values are the definition's, both states have code 0, and `RESET` leads to `afterReset`. -/
theorem resetStateValues : Obligations.ResetStateValues :=
  ⟨rfl, rfl, rfl, rfl, by decide, by decide, cleanEntry_reset, fun s hheld =>
    ⟨s.afterReset, exec_reset s, cleanEntry_afterReset hheld, rfl⟩⟩

/-! ## How many sequencer steps a frame can still take (R201, R358) -/

/-- The payload bytes that no chunk write has counted yet. -/
def TxState.unsent (tx : TxState) : Nat := (tx.payload.getD []).length - tx.offset.toNat

/-- A bound on the sequencer steps to `Idle` with `unsent` bytes to send: each byte costs at most a chunk write and a drain, and
besides these each state up to the trailer write costs one step. -/
def TxSt.stepsLeft (unsent : Nat) : TxSt → Nat
  | .idle => 0
  | .writeTrailer | .writeChunk => 1 + 2 * unsent
  | .drain | .delay => 2 + 2 * unsent
  | .writeHeader => 3 + 2 * unsent
  | .checksum => 4 + 2 * unsent

def TxState.stepsLeft (tx : TxState) : Nat := tx.state.stepsLeft tx.unsent

theorem TxState.unsent_eq {tx : TxState} {p : List Byte} (hp : tx.payload = some p) :
    tx.unsent = p.length - tx.offset.toNat := by
  rw [unsent, hp, Option.getD_some]

theorem TxSt.stepsLeft_pos {st : TxSt} (hs : st ≠ .idle) (n : Nat) : 0 < st.stepsLeft n := by
  cases st with
  | idle => exact absurd rfl hs
  | _ => simp only [stepsLeft]; omega

/-- The end of an attempt leaves no step, so any state but `Idle` has more. -/
theorem stepsLeft_finish_lt {s : State} (hs : s.tx.state ≠ .idle) (code : TxCode) (t : State) :
    (finish code t).tx.stepsLeft < s.tx.stepsLeft :=
  TxSt.stepsLeft_pos hs s.tx.unsent

/-- After the delay or a drain the frame goes on with a chunk or the trailer; both have the same, lower bound. -/
theorem stepsLeft_trailer_or_chunk_lt {tx : TxState} (hs : tx.state = .delay ∨ tx.state = .drain) (c : Prop)
    [Decidable c] : { tx with state := if c then .writeTrailer else .writeChunk }.stepsLeft < tx.stepsLeft := by
  have hnext : (if c then TxSt.writeTrailer else .writeChunk).stepsLeft tx.unsent = 1 + 2 * tx.unsent := by
    split <;> rfl
  refine hnext.trans_lt ?_
  rcases hs with hs | hs <;> simp [TxState.stepsLeft, TxSt.stepsLeft, hs]

/-- A chunk write that is taken counts at least one byte, which pays for the drain it asks for. -/
theorem exec_txChunkWrite_stepsLeft_lt {s t : State} {n : U32} (hi : TxInv s.tx) (hs : s.tx.state = .writeChunk)
    (hn : n ≠ 0) (h : exec (.txChunkWrite (.count n)) s = .next t) : t.tx.stepsLeft < s.tx.stepsLeft := by
  obtain ⟨p, hp⟩ := hi.payload_some (by simp [hs])
  have hlt := hi.offset_place (by simp [hs]) hp
  rw [hs, offsetOk] at hlt
  have hpos : n.toNat ≠ 0 := BitVec.toNat_ne.mp hn
  obtain ⟨-, hoff, hp', hs'⟩ := exec_txChunkWrite_count_next hi hs hp hn h
  rw [TxState.stepsLeft, TxState.stepsLeft, hs, hs', TxState.unsent_eq hp, TxState.unsent_eq hp', hoff]
  simp only [TxSt.stepsLeft]
  omega

/-- Every enabled sequencer step that completes lowers the bound. -/
theorem exec_txStep_stepsLeft_lt {i : Instr} {s t : State} (hi : TxInv s.tx) (hstep : i.isTxStep = true)
    (he : enabled i s = true) (h : exec i s = .next t) : t.tx.stepsLeft < s.tx.stepsLeft := by
  cases i with
  | txCksum =>
    obtain ⟨hs, w, ht, f, p, -, -, -, -, rfl⟩ | ⟨hne, -⟩ := execTxCksum_next h
    · simp [TxState.stepsLeft, TxSt.stepsLeft, TxState.unsent, hs]
    · simp [enabled, hne] at he
  | txHdrWrite r =>
    obtain ⟨hs, hdr, n, d, -, -, -, ⟨-, rfl⟩ | ⟨-, rfl⟩⟩ | ⟨hne, -⟩ := execTxHdrWrite_next h
    · simp [TxState.stepsLeft, TxSt.stepsLeft, TxState.unsent, hs]
    · exact stepsLeft_finish_lt (by simp [hs]) _ _
    · simp [enabled, hne] at he
  | txDelayDone =>
    obtain ⟨hs, p, -, rfl⟩ | ⟨hne, -⟩ := execTxDelayDone_next h
    · exact stepsLeft_trailer_or_chunk_lt (.inl hs) _
    · simp [enabled, hne] at he
  | txChunkWrite r =>
    obtain ⟨hs, p, n, d, -, -, -, ⟨-, rfl⟩ | ⟨c, rfl, hc, -⟩⟩ | ⟨hne, -⟩ := execTxChunkWrite_next h
    · exact stepsLeft_finish_lt (by simp [hs]) _ _
    · exact exec_txChunkWrite_stepsLeft_lt hi hs hc h
    · simp [enabled, hne] at he
  | txDrain r =>
    obtain ⟨hs, ⟨-, rfl⟩ | ⟨-, p, -, rfl⟩⟩ | ⟨hne, -⟩ := execTxDrain_next h
    · exact stepsLeft_finish_lt (by simp [hs]) _ _
    · exact stepsLeft_trailer_or_chunk_lt (.inr hs) _
    · simp [enabled, hne] at he
  | txTrlWrite r =>
    obtain ⟨hs, n, d, -, -, ⟨-, rfl⟩ | ⟨-, rfl⟩⟩ | ⟨hne, -⟩ := execTxTrlWrite_next h
    · exact stepsLeft_finish_lt (by simp [hs]) _ _
    · exact stepsLeft_finish_lt (by simp [hs]) _ _
    · simp [enabled, hne] at he
  | _ => simp [Instr.isTxStep] at hstep

/-- A run of sequencer steps is no longer than the bound where it begins. -/
theorem txRun_length_le_stepsLeft : ∀ {ops : List Instr} {s : State}, TxInv s.tx → TxRun ops s →
    ops.length ≤ s.tx.stepsLeft
  | [], _, _, _ => Nat.zero_le _
  | _ :: _, _, hi, ⟨hstep, he, _, hexec, hrun⟩ =>
    (txRun_length_le_stepsLeft (exec_keeps_txInv hi hexec) hrun).trans_lt
      (exec_txStep_stepsLeft_lt hi hstep he hexec)

/-! ## Until `Idle` a sequencer step completes (R358) -/

/-- Each state has its step, here with one response that is always admitted; the invariants supply the fields it reads. -/
theorem TxInv.txStep_completes {s : State} (hi : TxInv s.tx) (hs : s.tx.state ≠ .idle) :
    ∃ i t, i.isTxStep = true ∧ enabled i s = true ∧ exec i s = .next t := by
  obtain ⟨w, ht, f, p, hw, hh, hf, hp⟩ := hi.fields_some hs
  cases hst : s.tx.state with
  | idle => exact absurd hst hs
  | checksum => exact ⟨.txCksum, _, rfl, by simp [enabled, hst], exec_txCksum_of_checksum hst hw hh hf hp⟩
  | writeHeader =>
    obtain ⟨hdr, hhdr⟩ := hi.hdr_some hst
    exact ⟨.txHdrWrite (.count 20), _, rfl, by simp [enabled, hst], exec_txHdrWrite_full hst hhdr⟩
  | delay => exact ⟨.txDelayDone, _, rfl, by simp [enabled, hst], exec_txDelayDone_of_delay hst hp⟩
  | writeChunk => exact ⟨.txChunkWrite (.count 0), _, rfl, by simp [enabled, hst], exec_txChunkWrite_count_zero hst hp⟩
  | drain => exact ⟨.txDrain .done, _, rfl, by simp [enabled, hst], exec_txDrain_done hst hp⟩
  | writeTrailer => exact ⟨.txTrlWrite (.count 2), _, rfl, by simp [enabled, hst], exec_txTrlWrite_full hst⟩

/-- Settles O33: in `Checksum` the bound is at most 4 and two for each byte of the payload, and each step lowers it. -/
theorem frameEndsInBoundedSteps : Obligations.FrameEndsInBoundedSteps := by
  refine ⟨fun ops s p hi hs hp hrun => ?bound, fun s => TxInv.txStep_completes⟩
  calc ops.length ≤ s.tx.stepsLeft := txRun_length_le_stepsLeft hi hrun
    _ = 4 + 2 * (p.length - s.tx.offset.toNat) := by rw [TxState.stepsLeft, hs, TxState.unsent_eq hp, TxSt.stepsLeft]
    _ ≤ 4 + 2 * p.length := by omega

end Sys2Proof.Machine
end
